-- ==== Sys2Proof/Word.lean ====
section
/-! DEFINITION. The word types of the machine (00_scope.md R10, R12; 10_state.md R20-R34). -/

namespace Sys2Proof

/-- A memory byte, a general register, a timer. -/
abbrev Byte := BitVec 8

/-- An instruction word, a stack slot, I or PC. -/
abbrev Word := BitVec 16

/-- A 4-bit instruction field: `n`, or a key index (00_scope.md R10). -/
abbrev Nibble := BitVec 4

/-- The number of a general register: the 4-bit field `x` or `y` (10_state.md R44). -/
abbrev Reg := BitVec 4

/-- The 12-bit address field `nnn` (30_encoding.md R71). -/
abbrev Addr12 := BitVec 12

end Sys2Proof
end

