-- ==== Sys2Proof/Config.lean ====
section
/-! DEFINITION. What an implementation fixes at startup (00_scope.md R9; 10_state.md R38), and the free values:
what the Host supplies and the CORE cannot predict (00_scope.md R15). -/

namespace Sys2Proof

/-- Number of memory cells: `MEM_SIZE` (00_scope.md R9). -/
def memSize : Nat := 4096

/-- First address of the program region: `PROGRAM_BASE` (00_scope.md R9). -/
def programBase : Nat := 512

/-- `SHIFT_SOURCE` (00_scope.md R9; D9). -/
inductive ShiftSource where
  | vx
  | vy
  deriving DecidableEq, Repr

/-- `JUMP_OFFSET_REG` (00_scope.md R9; D10). -/
inductive JumpOffsetReg where
  | v0
  | vx
  deriving DecidableEq, Repr

/-- `RANGE_I_MODE` (00_scope.md R9; D11). -/
inductive RangeIMode where
  | unchanged
  | addXPlus1
  | addX
  deriving DecidableEq, Repr

/-- `ADD_I_VF` (00_scope.md R9; D13). -/
inductive AddIVf where
  | carry16
  | unchanged
  | overflow12
  deriving DecidableEq, Repr

/-- `LOW_MEMORY_WRITE` (00_scope.md R9; D16). -/
inductive LowMemoryWrite where
  | fault
  | write
  deriving DecidableEq, Repr

/-- One built-in digit sprite: 5 bytes, top row first (20_memory.md R53). -/
abbrev Glyph := Vector Byte 5

/-- The parameters of 00_scope.md R9 that the source does not fix. `STACK_POLICY` has one value, so it is not a
field (41_control_flow.md R132); `SOUND_FREQ_HZ` is OPEN and stands below as `Config.soundFreqHz`.
`fontBase` is bounded so that the 80 font bytes lie in the reserved region 0..511, where the source puts them
(20_memory.md R53). -/
structure Config where
  haltOnZero     : Bool
  shiftSource    : ShiftSource
  jumpOffsetReg  : JumpOffsetReg
  rangeIMode     : RangeIMode
  addImmSetsVf   : Bool
  addIVf         : AddIVf
  lowMemoryWrite : LowMemoryWrite
  fontBase       : Fin 433
  fontGlyphs     : Vector Glyph 16
  deriving DecidableEq, Repr

/-- The glyphs of 20_memory.md R53, digit 0 first. PRESUMED (the spec's G2: general knowledge), unsafe: log 8. -/
def Config.standardGlyphs : Vector Glyph 16 :=
  #v[#v[0xF0, 0x90, 0x90, 0x90, 0xF0], #v[0x20, 0x60, 0x20, 0x20, 0x70],
     #v[0xF0, 0x10, 0xF0, 0x80, 0xF0], #v[0xF0, 0x10, 0xF0, 0x10, 0xF0],
     #v[0x90, 0x90, 0xF0, 0x10, 0x10], #v[0xF0, 0x80, 0xF0, 0x10, 0xF0],
     #v[0xF0, 0x80, 0xF0, 0x90, 0xF0], #v[0xF0, 0x10, 0x20, 0x40, 0x40],
     #v[0xF0, 0x90, 0xF0, 0x90, 0xF0], #v[0xF0, 0x90, 0xF0, 0x10, 0xF0],
     #v[0xF0, 0x90, 0xF0, 0x90, 0x90], #v[0xE0, 0x90, 0xE0, 0x90, 0xE0],
     #v[0xF0, 0x80, 0x80, 0x80, 0xF0], #v[0xE0, 0x90, 0x90, 0x90, 0xE0],
     #v[0xF0, 0x80, 0xF0, 0x80, 0xF0], #v[0xF0, 0x80, 0xF0, 0x80, 0x80]]

/-- The default of every parameter (00_scope.md R9). DESIGN CHOICE of the spec (D3, D9-D13, D16, D19), log 10. -/
def Config.default : Config where
  haltOnZero     := true
  shiftSource    := .vx
  jumpOffsetReg  := .v0
  rangeIMode     := .unchanged
  addImmSetsVf   := true
  addIVf         := .carry16
  lowMemoryWrite := .fault
  fontBase       := 0
  fontGlyphs     := Config.standardGlyphs

/-- What may happen next at an instruction boundary (60_exceptions.md R226). -/
inductive Event where
  /-- the Core's next iteration (40_cycle_loop.md R100) -/
  | core
  /-- the Timer's `TickDT` (60_exceptions.md R240) -/
  | tickDT
  /-- the Timer's `TickST` (60_exceptions.md R240) -/
  | tickST
  /-- host cancellation (40_cycle_loop.md R110) -/
  | cancel
  /-- a key-down event for key `k` (44_random_timers_input.md R188) -/
  | keyDown (k : Nibble)
  /-- an InputPort poll that fails (44_random_timers_input.md R189) -/
  | pollFail
  deriving DecidableEq, Repr, Inhabited

/-- The `n`th free choice of the scheduler (60_exceptions.md R226). A free value: nothing constrains it. Log 3. -/
opaque Config.freeEvent : Nat → Event

/-- The `n`th free draw as `HostRandomByte` (00_scope.md R15; D26). A free value. Log 2. -/
opaque Config.freeByte : Nat → Byte

/-- The `n`th free draw as a sample of the 16 keys for `HostKeyPressed`: bit `k` is key `k` (00_scope.md R15; D44).
A free value. Log 2. -/
opaque Config.freeKeys : Nat → BitVec 16

/-- The `n`th free draw as `HostPortOk` (00_scope.md R15; D27). A free value. Log 2. -/
opaque Config.freePortOk : Nat → Bool

/-- `SOUND_FREQ_HZ`, left OPEN by the spec (00_scope.md R9; D33). A free constant. Log 13. -/
opaque Config.soundFreqHz : Nat

end Sys2Proof
end

