-- ==== Sys2Proof/Syntax.lean ====
section
/-! DEFINITION. The 35 instructions of 30_encoding.md R74, one constructor per row of opcode_table.json, in its
order. A word that matches no row is no instruction of this type: it is `Invalid` (R76), and `Decode.lean` names why. -/

namespace Sys2Proof

/-- An instruction with the operand fields of 30_encoding.md R71. -/
inductive Instr where
  /-- `0000` HALT (40_cycle_loop.md R105) -/
  | halt
  /-- `00E0` CLS (45_display.md R203) -/
  | cls
  /-- `00EE` RET (41_control_flow.md R125) -/
  | ret
  /-- `1NNN` JP nnn (R122) -/
  | jp (nnn : Addr12)
  /-- `2NNN` CALL nnn (R124) -/
  | call (nnn : Addr12)
  /-- `3XNN` SE Vx, nn (R126) -/
  | seImm (x : Reg) (nn : Byte)
  /-- `4XNN` SNE Vx, nn (R127) -/
  | sneImm (x : Reg) (nn : Byte)
  /-- `5XY0` SE Vx, Vy (R128) -/
  | seReg (x y : Reg)
  /-- `6XNN` LD Vx, nn (43_transfer.md R160) -/
  | ldImm (x : Reg) (nn : Byte)
  /-- `7XNN` ADD Vx, nn (42_arithmetic_logic.md R140) -/
  | addImm (x : Reg) (nn : Byte)
  /-- `8XY0` LD Vx, Vy (43_transfer.md R161) -/
  | ldReg (x y : Reg)
  /-- `8XY1` OR Vx, Vy (42_arithmetic_logic.md R141) -/
  | or (x y : Reg)
  /-- `8XY2` AND Vx, Vy (R142) -/
  | and (x y : Reg)
  /-- `8XY3` XOR Vx, Vy (R143) -/
  | xor (x y : Reg)
  /-- `8XY4` ADD Vx, Vy (R144) -/
  | addReg (x y : Reg)
  /-- `8XY5` SUB Vx, Vy (R145) -/
  | sub (x y : Reg)
  /-- `8XY6` SHR Vx (R146) -/
  | shr (x y : Reg)
  /-- `8XY7` SUBN Vx, Vy (R147) -/
  | subn (x y : Reg)
  /-- `8XYE` SHL Vx (R148) -/
  | shl (x y : Reg)
  /-- `9XY0` SNE Vx, Vy (41_control_flow.md R129) -/
  | sneReg (x y : Reg)
  /-- `ANNN` LD I, nnn (43_transfer.md R162) -/
  | ldI (nnn : Addr12)
  /-- `BNNN` JP V0, nnn (41_control_flow.md R123) -/
  | jpV0 (nnn : Addr12)
  /-- `CXNN` RND Vx, nn (44_random_timers_input.md R180) -/
  | rnd (x : Reg) (nn : Byte)
  /-- `DXYN` DRW Vx, Vy, n (45_display.md R204) -/
  | drw (x y : Reg) (n : Nibble)
  /-- `EX9E` SKP Vx (44_random_timers_input.md R185) -/
  | skp (x : Reg)
  /-- `EXA1` SKNP Vx (R186) -/
  | sknp (x : Reg)
  /-- `FX07` LD Vx, DT (R181) -/
  | ldVxDt (x : Reg)
  /-- `FX0A` LD Vx, K (R187) -/
  | ldVxK (x : Reg)
  /-- `FX15` LD DT, Vx (R182) -/
  | ldDt (x : Reg)
  /-- `FX18` LD ST, Vx (R183) -/
  | ldSt (x : Reg)
  /-- `FX1E` ADD I, Vx (42_arithmetic_logic.md R149) -/
  | addI (x : Reg)
  /-- `FX29` LD F, Vx (43_transfer.md R163) -/
  | ldF (x : Reg)
  /-- `FX33` LD B, Vx (R164) -/
  | ldB (x : Reg)
  /-- `FX55` SAVEREG Vx (R165) -/
  | saveReg (x : Reg)
  /-- `FX65` LOADREG Vx (R166) -/
  | loadReg (x : Reg)
  deriving DecidableEq, Repr

end Sys2Proof
end

