-- ==== Sys2Proof/WellFormed.lean ====
section
/-! DEFINITION. When an instruction exists on the machine. The operand fields are bit vectors of the field's own
width, so no operand can be out of range (10_state.md R44; 30_encoding.md R81). The one check left is the
configuration's: the HALT row exists only when `HALT_ON_ZERO` is true (30_encoding.md R74). -/

namespace Sys2Proof

/-- The instruction is a row of the opcode map under the configuration `c` (30_encoding.md R74). -/
def Instr.wellFormed (c : Config) : Instr → Bool
  | .halt => c.haltOnZero
  | .cls | .ret | .jp _ | .call _ | .seImm _ _ | .sneImm _ _ | .seReg _ _ | .ldImm _ _ | .addImm _ _ => true
  | .ldReg _ _ | .or _ _ | .and _ _ | .xor _ _ | .addReg _ _ | .sub _ _ | .shr _ _ | .subn _ _ | .shl _ _ => true
  | .sneReg _ _ | .ldI _ | .jpV0 _ | .rnd _ _ | .drw _ _ _ | .skp _ | .sknp _ => true
  | .ldVxDt _ | .ldVxK _ | .ldDt _ | .ldSt _ | .addI _ | .ldF _ | .ldB _ | .saveReg _ | .loadReg _ => true

end Sys2Proof
end

