-- ==== Sys2Proof/Decode.lean ====
section
/-! DEFINITION. The decoder and the encoder (30_encoding.md R70-R76). -/

namespace Sys2Proof

/-- Why a word is `Invalid`: one name per row of the table in 30_encoding.md R76. -/
inductive InvalidWord where
  /-- `0NNN` other than `00E0`, `00EE` and, with `HALT_ON_ZERO`, `0000` -/
  | group0
  /-- `5XYN` with `n ≠ 0` -/
  | group5
  /-- `8XYN` with `n` in 8..D or F -/
  | group8
  /-- `9XYN` with `n ≠ 0` -/
  | group9
  /-- `EXNN` with `nn` not 9E or A1 -/
  | groupE
  /-- `FXNN` with `nn` none of the nine listed -/
  | groupF
  deriving DecidableEq, Repr

/-- `op = w[15:12]` (30_encoding.md R71). -/
def fieldOp (w : Word) : Nibble := w.extractLsb' 12 4

/-- `x = w[11:8]`. -/
def fieldX (w : Word) : Reg := w.extractLsb' 8 4

/-- `y = w[7:4]`. -/
def fieldY (w : Word) : Reg := w.extractLsb' 4 4

/-- `n = w[3:0]`. -/
def fieldN (w : Word) : Nibble := w.extractLsb' 0 4

/-- `nn = w[7:0]`. -/
def fieldNN (w : Word) : Byte := w.extractLsb' 0 8

/-- `nnn = w[11:0]`. -/
def fieldNNN (w : Word) : Addr12 := w.extractLsb' 0 12

/-- Group 0: decided by the low 12 bits (30_encoding.md R75). -/
def decode0 (haltOnZero : Bool) (nnn : Addr12) : Except InvalidWord Instr :=
  if nnn = 0x0E0 then .ok .cls
  else if nnn = 0x0EE then .ok .ret
  else if nnn = 0x000 ∧ haltOnZero = true then .ok .halt
  else .error .group0

/-- Group 8: decided by `n` (30_encoding.md R75). -/
def decode8 (x y : Reg) (n : Nibble) : Except InvalidWord Instr :=
  match n.toNat with
  | 0x0 => .ok (.ldReg x y)
  | 0x1 => .ok (.or x y)
  | 0x2 => .ok (.and x y)
  | 0x3 => .ok (.xor x y)
  | 0x4 => .ok (.addReg x y)
  | 0x5 => .ok (.sub x y)
  | 0x6 => .ok (.shr x y)
  | 0x7 => .ok (.subn x y)
  | 0xE => .ok (.shl x y)
  | _ => .error .group8

/-- Group E: decided by `nn` (30_encoding.md R75). -/
def decodeE (x : Reg) (nn : Byte) : Except InvalidWord Instr :=
  if nn = 0x9E then .ok (.skp x)
  else if nn = 0xA1 then .ok (.sknp x)
  else .error .groupE

/-- Group F: decided by `nn` (30_encoding.md R75). -/
def decodeF (x : Reg) (nn : Byte) : Except InvalidWord Instr :=
  if nn = 0x07 then .ok (.ldVxDt x)
  else if nn = 0x0A then .ok (.ldVxK x)
  else if nn = 0x15 then .ok (.ldDt x)
  else if nn = 0x18 then .ok (.ldSt x)
  else if nn = 0x1E then .ok (.addI x)
  else if nn = 0x29 then .ok (.ldF x)
  else if nn = 0x33 then .ok (.ldB x)
  else if nn = 0x55 then .ok (.saveReg x)
  else if nn = 0x65 then .ok (.loadReg x)
  else .error .groupF

/-- The decoder: total on all 65536 words, first by `op`, then within the group (30_encoding.md R73, R75).
`haltOnZero` is the parameter `HALT_ON_ZERO`, the one parameter that changes the map (R74). -/
def decode (haltOnZero : Bool) (w : Word) : Except InvalidWord Instr :=
  match (fieldOp w).toNat with
  | 0x0 => decode0 haltOnZero (fieldNNN w)
  | 0x1 => .ok (.jp (fieldNNN w))
  | 0x2 => .ok (.call (fieldNNN w))
  | 0x3 => .ok (.seImm (fieldX w) (fieldNN w))
  | 0x4 => .ok (.sneImm (fieldX w) (fieldNN w))
  | 0x5 => if fieldN w = 0 then .ok (.seReg (fieldX w) (fieldY w)) else .error .group5
  | 0x6 => .ok (.ldImm (fieldX w) (fieldNN w))
  | 0x7 => .ok (.addImm (fieldX w) (fieldNN w))
  | 0x8 => decode8 (fieldX w) (fieldY w) (fieldN w)
  | 0x9 => if fieldN w = 0 then .ok (.sneReg (fieldX w) (fieldY w)) else .error .group9
  | 0xA => .ok (.ldI (fieldNNN w))
  | 0xB => .ok (.jpV0 (fieldNNN w))
  | 0xC => .ok (.rnd (fieldX w) (fieldNN w))
  | 0xD => .ok (.drw (fieldX w) (fieldY w) (fieldN w))
  | 0xE => decodeE (fieldX w) (fieldNN w)
  | _ => decodeF (fieldX w) (fieldNN w)

/-- The word of two consecutive bytes, the first the most significant (20_memory.md R55; D1, log 9). -/
def wordOfBytes (hi lo : Byte) : Word := hi ++ lo

/-- The two bytes of a word as memory holds them: the high byte at the lower address (20_memory.md R55). -/
def hiByte (w : Word) : Byte := w.extractLsb' 8 8

/-- The byte at the higher address. -/
def loByte (w : Word) : Byte := w.extractLsb' 0 8

/-- Decodes the first instruction of a byte stream and gives the bytes after it; `none` when fewer than two bytes
are left (30_encoding.md R70: every instruction is 2 bytes). -/
def decodeBytes (haltOnZero : Bool) : List Byte → Option (Except InvalidWord Instr × List Byte)
  | hi :: lo :: rest => some (decode haltOnZero (wordOfBytes hi lo), rest)
  | _ => none

/-- A word of the pattern `op X NN`. -/
def encodeXNN (op : Nibble) (x : Reg) (nn : Byte) : Word := op ++ x ++ nn

/-- A word of the pattern `op X Y n`. -/
def encodeXYN (op : Nibble) (x y : Reg) (n : Nibble) : Word := op ++ x ++ y ++ n

/-- A word of the pattern `op NNN`. -/
def encodeNNN (op : Nibble) (nnn : Addr12) : Word := op ++ nnn

/-- The one word of an instruction (30_encoding.md R74, R80). -/
def encode : Instr → Word
  | .halt => 0x0000
  | .cls => 0x00E0
  | .ret => 0x00EE
  | .jp nnn => encodeNNN 0x1 nnn
  | .call nnn => encodeNNN 0x2 nnn
  | .seImm x nn => encodeXNN 0x3 x nn
  | .sneImm x nn => encodeXNN 0x4 x nn
  | .seReg x y => encodeXYN 0x5 x y 0x0
  | .ldImm x nn => encodeXNN 0x6 x nn
  | .addImm x nn => encodeXNN 0x7 x nn
  | .ldReg x y => encodeXYN 0x8 x y 0x0
  | .or x y => encodeXYN 0x8 x y 0x1
  | .and x y => encodeXYN 0x8 x y 0x2
  | .xor x y => encodeXYN 0x8 x y 0x3
  | .addReg x y => encodeXYN 0x8 x y 0x4
  | .sub x y => encodeXYN 0x8 x y 0x5
  | .shr x y => encodeXYN 0x8 x y 0x6
  | .subn x y => encodeXYN 0x8 x y 0x7
  | .shl x y => encodeXYN 0x8 x y 0xE
  | .sneReg x y => encodeXYN 0x9 x y 0x0
  | .ldI nnn => encodeNNN 0xA nnn
  | .jpV0 nnn => encodeNNN 0xB nnn
  | .rnd x nn => encodeXNN 0xC x nn
  | .drw x y n => encodeXYN 0xD x y n
  | .skp x => encodeXNN 0xE x 0x9E
  | .sknp x => encodeXNN 0xE x 0xA1
  | .ldVxDt x => encodeXNN 0xF x 0x07
  | .ldVxK x => encodeXNN 0xF x 0x0A
  | .ldDt x => encodeXNN 0xF x 0x15
  | .ldSt x => encodeXNN 0xF x 0x18
  | .addI x => encodeXNN 0xF x 0x1E
  | .ldF x => encodeXNN 0xF x 0x29
  | .ldB x => encodeXNN 0xF x 0x33
  | .saveReg x => encodeXNN 0xF x 0x55
  | .loadReg x => encodeXNN 0xF x 0x65

/-- The word the host's table numbers: the bits above `nbits` are 0, and the 16-bit word's bits are numbered as
opcode_table.json numbers them. -/
def tableWord (nbits w : Nat) : Word := BitVec.ofNat 16 (w % 2 ^ nbits)

/-- What the decoder reads from the two bytes of the table's word, laid out as memory holds them, under the default
`HALT_ON_ZERO`. -/
def decodeTableWord (nbits w : Nat) : Option Instr :=
  match decodeBytes Config.default.haltOnZero [hiByte (tableWord nbits w), loByte (tableWord nbits w)] with
  | some (.ok i, _) => some i
  | _ => none

end Sys2Proof
end

