-- ==== Sys2Proof/Machine/State.lean ====
section
/-! DEFINITION. The state of the machine as plain data (10_state.md), the reasons a step can stop, and the state
after reset (10_state.md R42; 70_reset_and_hazards.md R260). -/

namespace Sys2Proof.Machine

/-- Why the loop halted (10_state.md R35). -/
inductive HaltReason where
  | haltSentinel
  | pcOverflow
  | cancelled
  deriving DecidableEq, Repr

/-- The fatal errors of 60_exceptions.md R220, codes 2 to 8. -/
inductive FaultKind where
  | stackOverflow
  | stackUnderflow
  | addressOutOfRange
  | reservedMemoryWrite
  | inputPortFailure
  | displayPortFailure
  | soundPortFailure
  deriving DecidableEq, Repr

/-- The cycle-loop state `run` (10_state.md R35). -/
inductive Run where
  | running
  /-- FX0A is suspended until a key-down event gives `V[x]` its value -/
  | waitingForKey (x : Reg)
  /-- a normal stop, final -/
  | halted (reason : HaltReason)
  /-- a fatal error: the fault, PC at the faulting step, the instruction word (none for a fetch fault or a Timer
  step), and the extra value of R220 -/
  | faulted (fault : FaultKind) (pc : Word) (word : Option Word) (info : Option Nat)
  deriving DecidableEq, Repr

/-- A record of the diagnostic output (10_state.md R39; code 1 of 60_exceptions.md R220). -/
inductive Diagnostic where
  | invalidInstruction (pc word : Word)
  deriving DecidableEq, Repr

/-- A call of the SoundPort (10_state.md R41). -/
inductive SoundCall where
  | start (frequencyHz : Nat)
  | stop
  deriving DecidableEq, Repr

/-- The 64 by 32 grid of pixels: `fb[y][x]`, true is on (10_state.md R36). -/
abbrev Framebuffer := Vector (Vector Bool 64) 32

/-- Memory: the bytes that differ from the reset contents, by rising address (20_memory.md R50). -/
abbrev Memory := List Host.Cell

/-- The model's own fields: what the Host and the scheduler will answer, oldest first; when a list is used up, free
values are drawn, and `drawn` counts them (00_scope.md R15; 10_state.md R40; logs 2 and 3). -/
structure HostInputs where
  /-- the scheduler's choices -/
  events  : List Event
  /-- answers of `HostRandomByte` -/
  randoms : List Byte
  /-- samples of the 16 keys for `HostKeyPressed`: bit `k` is key `k` -/
  keys    : List (BitVec 16)
  /-- answers of `HostPortOk`, in the order of the port calls -/
  portOks : List Bool
  /-- free values drawn so far -/
  drawn   : Nat
  deriving DecidableEq, Repr

/-- Everything the spec gives the machine, and the host inputs. -/
structure State where
  /-- V0..VF (10_state.md R20, R21) -/
  v     : Vector Byte 16
  /-- the index register I (R25, R26) -/
  i     : Word
  /-- the program counter (R27, R28) -/
  pc    : Word
  /-- the stack pointer, legal values 0..16 (R31; log 6) -/
  sp    : Byte
  /-- the return stack (R30, R32) -/
  stack : Vector Word 16
  /-- the delay timer (R33) -/
  dt    : Byte
  /-- the sound timer (R34) -/
  st    : Byte
  /-- the framebuffer (R36) -/
  fb    : Framebuffer
  /-- memory (R37) -/
  mem   : Memory
  /-- the cycle-loop state (R35) -/
  run   : Run
  /-- the diagnostic output (R39) -/
  diag  : List Diagnostic
  /-- output: the SoundPort calls made, oldest first (R41; log 13) -/
  sound : List SoundCall
  /-- output: the last snapshot handed to the DisplayPort (45_display.md R205; log 12) -/
  shown : Option Framebuffer
  /-- the configuration, fixed at startup (R38; log 1) -/
  cfg   : Config
  /-- host inputs not yet drawn (the model's own; logs 2 and 3) -/
  host  : HostInputs
  deriving DecidableEq, Repr

/-- Why a step has no next state. The spec's own faults are not here: they are entered as a state with
`run = .faulted …` (60_exceptions.md R221; log 5). -/
inductive Fault where
  /-- raised by `step` when `run` is `Halted`: no agent has a step (40_cycle_loop.md R112). Safe: nothing is claimed
  of a run after its end. -/
  | runEnded
  /-- raised by `step` when `run` is `Faulted`: no agent has a step (40_cycle_loop.md R112). Safe, as above. -/
  | runFaulted
  /-- raised by CALL and RET when SP is above 16, outside the legal values of 10_state.md R31. Safe: no run reaches
  such a state, and nothing is claimed of it (log 6). -/
  | stackPointerIllegal
  deriving DecidableEq, Repr

/-- Why a step has no meaning. -/
inductive Refusal where
  /-- raised by `exec` for an instruction that has no meaning yet. Safe. No arm raises it now. -/
  | notModelled (mnemonic : String)
  deriving DecidableEq, Repr

/-- No pending host input: every draw is free (DESIGN CHOICE, logs 2 and 3). -/
def HostInputs.none : HostInputs where
  events  := []
  randoms := []
  keys    := []
  portOks := []
  drawn   := 0

/-- The state after reset under the configuration `c`, with no program image (10_state.md R42;
70_reset_and_hazards.md R260). PC is the source's; the zeros are the spec's decision D5 (log 7). -/
def State.resetWith (c : Config) : State where
  v     := Vector.replicate 16 0
  i     := 0
  pc    := 0x200
  sp    := 0
  stack := Vector.replicate 16 0
  dt    := 0
  st    := 0
  fb    := Vector.replicate 32 (Vector.replicate 64 false)
  mem   := []
  run   := .running
  diag  := []
  sound := []
  shown := none
  cfg   := c
  host  := HostInputs.none

/-- The state after reset, every parameter at its default (00_scope.md R9; 10_state.md R42). -/
def State.reset : State := State.resetWith Config.default

end Sys2Proof.Machine
end

