-- ==== Sys2Proof/Machine/Flags.lean ====
section
/-! DEFINITION. The arithmetic and every flag computation (42_arithmetic_logic.md R140-R150), on unbounded naturals
reduced at the end (00_scope.md R11). -/

namespace Sys2Proof.Machine

/-- A flag as the byte 0 or 1 that VF receives (10_state.md R21). -/
def flagByte (b : Bool) : Byte := if b then 1 else 0

/-- The 8-bit sum: `s mod 256` (R140, R144). -/
def add8 (a b : Byte) : Byte := BitVec.ofNat 8 (a.toNat + b.toNat)

/-- Carry out of bit 7: `s > 255` (R140, R144). -/
def carry8 (a b : Byte) : Bool := decide (255 < a.toNat + b.toNat)

/-- The 8-bit difference: `(a + 256 - b) mod 256` (R145, R147). -/
def sub8 (a b : Byte) : Byte := BitVec.ofNat 8 (a.toNat + 256 - b.toNat)

/-- No borrow: `a >= b` (R145, R147). -/
def notBorrow8 (a b : Byte) : Bool := decide (b.toNat ≤ a.toNat)

/-- The right shift by one (R146). -/
def shr8 (a : Byte) : Byte := BitVec.ofNat 8 (a.toNat / 2)

/-- The bit shifted out to the right: bit 0 (R146). -/
def shrOut (a : Byte) : Bool := a.getLsbD 0

/-- The left shift by one, `mod 256` (R148). -/
def shl8 (a : Byte) : Byte := BitVec.ofNat 8 (a.toNat * 2)

/-- The bit shifted out to the left: bit 7 (R148). -/
def shlOut (a : Byte) : Bool := a.getLsbD 7

/-- The 16-bit sum of I and a register: `s mod 65536` (R149). -/
def addI16 (i : Word) (b : Byte) : Word := BitVec.ofNat 16 (i.toNat + b.toNat)

/-- What ADD I, Vx writes to VF, if it writes it (R149, `ADD_I_VF`). -/
def addIFlag (mode : AddIVf) (i : Word) (b : Byte) : Option Bool :=
  match mode with
  | .carry16 => some (decide (0xFFFF < i.toNat + b.toNat))
  | .overflow12 => some (decide (0x0FFF < i.toNat + b.toNat))
  | .unchanged => none

/-- The hundreds, tens and ones of a byte (43_transfer.md R164). -/
def bcdDigits (v : Byte) : List Byte :=
  [BitVec.ofNat 8 (v.toNat / 100), BitVec.ofNat 8 (v.toNat / 10 % 10), BitVec.ofNat 8 (v.toNat % 10)]

end Sys2Proof.Machine
end

