-- ==== Sys2Proof/Machine/Memory.lean ====
section
/-! DEFINITION. Memory as a canonical list of cells (20_memory.md R50-R54): addresses strictly rising and below 4096,
and no cell equal to the reset contents of its address. -/

namespace Sys2Proof.Machine

/-- The reset contents of an address, which an unlisted address reads as: the font from `FONT_BASE`, 5 bytes a
digit, and 0 elsewhere (20_memory.md R52, R53; logs 7 and 8). -/
def resetByte (c : Config) (a : Nat) : Byte :=
  if h : c.fontBase.val ≤ a ∧ a < c.fontBase.val + 80 then
    (c.fontGlyphs[(a - c.fontBase.val) / 5]'(by omega))[(a - c.fontBase.val) % 5]'(by omega)
  else 0

/-- The cell listed for an address. -/
def memLookup : Memory → Nat → Option Byte
  | [], _ => none
  | (k, b) :: m, a => if k = a then some b else memLookup m a

/-- The byte at an address (20_memory.md R62). -/
def memRead (c : Config) (m : Memory) (a : Nat) : Byte := (memLookup m a).getD (resetByte c a)

/-- Lists a cell at its place. -/
def memInsert : Memory → Nat → Byte → Memory
  | [], a, b => [(a, b)]
  | (k, v) :: m, a, b =>
    if a < k then (a, b) :: (k, v) :: m
    else if a = k then (a, b) :: m
    else (k, v) :: memInsert m a b

/-- Removes the cells of an address. -/
def memErase : Memory → Nat → Memory
  | [], _ => []
  | (k, v) :: m, a => if k = a then memErase m a else (k, v) :: memErase m a

/-- Writes a byte; writing the reset contents removes the cell, so that equal memories are equal lists. -/
def memWrite (c : Config) (m : Memory) (a : Nat) (b : Byte) : Memory :=
  if b = resetByte c a then memErase m a else memInsert m a b

/-- The canonical form: addresses strictly rising, within the address space, no cell at its reset contents. -/
def Memory.wf (c : Config) : Memory → Bool
  | [] => true
  | (a, b) :: m =>
    m.all (fun cell => decide (a < cell.1)) && decide (a < memSize) && decide (b ≠ resetByte c a) && Memory.wf c m

/-- The lowest address outside memory among the `count` addresses from `base`, if there is one: addresses are
unbounded naturals, never reduced (20_memory.md R57, R60; D15). -/
def outOfRange (base count : Nat) : Option Nat :=
  if 0 < count ∧ memSize < base + count then some (max base memSize) else none

/-- The lowest address of the reserved region among the `count` addresses from `base`, when `LOW_MEMORY_WRITE` is
`FAULT` (20_memory.md R59, R60). -/
def reservedWrite (c : Config) (base count : Nat) : Option Nat :=
  if c.lowMemoryWrite = .fault ∧ 0 < count ∧ base < programBase then some base else none

/-- The check of an instruction that reads (20_memory.md R60). -/
def readFault (base count : Nat) : Option (FaultKind × Nat) :=
  (outOfRange base count).map fun a => (.addressOutOfRange, a)

/-- The check of an instruction that writes: the range first, then the reserved region (20_memory.md R60;
60_exceptions.md R224). -/
def writeFault (c : Config) (base count : Nat) : Option (FaultKind × Nat) :=
  (readFault base count).or ((reservedWrite c base count).map fun a => (.reservedMemoryWrite, a))

end Sys2Proof.Machine
end

