-- ==== Sys2Proof/Machine/Ops.lean ====
section
/-! DEFINITION. The named operations every meaning is written from: registers, the PC, raising a fault, the stack,
memory, the host draws, the framebuffer, the ports (00_scope.md R12-R15). -/

namespace Sys2Proof.Machine

/-! ## Single fields -/

/-- `V[x]` (00_scope.md R12). -/
def State.getV (s : State) (x : Reg) : Byte := s.v[x.toNat]'(by have := x.isLt; omega)

/-- `V[x] <- b`. No register is hardwired (10_state.md R20). -/
def State.setV (s : State) (x : Reg) (b : Byte) : State :=
  { s with v := s.v.set x.toNat b (by have := x.isLt; omega) }

/-- `I <- w`. -/
def State.setI (s : State) (w : Word) : State := { s with i := w }

/-- `pc <- w`. -/
def State.setPc (s : State) (w : Word) : State := { s with pc := w }

/-- `DT <- b`. -/
def State.setDt (s : State) (b : Byte) : State := { s with dt := b }

/-- `ST <- b`, without the sound update. -/
def State.setSt (s : State) (b : Byte) : State := { s with st := b }

/-- `run <- r`. -/
def State.setRun (s : State) (r : Run) : State := { s with run := r }

/-- Replaces the framebuffer. -/
def State.setFb (s : State) (f : Framebuffer) : State := { s with fb := f }

/-- Records the snapshot handed to the DisplayPort. -/
def State.setShown (s : State) (f : Framebuffer) : State := { s with shown := some f }

/-- Appends a SoundPort call. -/
def State.addSound (s : State) (c : SoundCall) : State := { s with sound := s.sound ++ [c] }

/-- `Diag(kind, info)`: appends a record and changes nothing else (40_cycle_loop.md R108). -/
def State.addDiag (s : State) (d : Diagnostic) : State := { s with diag := s.diag ++ [d] }

/-- Replaces the host inputs. -/
def State.setHost (s : State) (h : HostInputs) : State := { s with host := h }

/-- Replaces SP and the stack. -/
def State.setStack (s : State) (sp : Byte) (stack : Vector Word 16) : State := { s with sp := sp, stack := stack }

/-- Writes the flag to VF as 0 or 1 (10_state.md R21). Written after the result, so it stays when `x = 15` (R22). -/
def State.setFlag (s : State) (b : Bool) : State := s.setV 15 (flagByte b)

/-- `sound_on` (10_state.md R41). -/
def State.soundOn (s : State) : Bool := decide (s.st ≠ 0)

/-! ## Memory -/

/-- `MemRead(a)` (00_scope.md R13). -/
def State.readByte (s : State) (a : Nat) : Byte := memRead s.cfg s.mem a

/-- `MemWrite(a, b)` (00_scope.md R13). -/
def State.writeByte (s : State) (a : Nat) (b : Byte) : State := { s with mem := memWrite s.cfg s.mem a b }

/-- The `count` bytes from `base`, in rising order. -/
def State.readBytes (s : State) (base : Nat) : Nat → List Byte
  | 0 => []
  | n + 1 => s.readByte base :: s.readBytes (base + 1) n

/-- Writes bytes from `base` on, in rising order (20_memory.md R60). -/
def State.writeBytes (s : State) (base : Nat) : List Byte → State
  | [] => s
  | b :: bs => (s.writeByte base b).writeBytes (base + 1) bs

/-! ## Register ranges -/

/-- The values of the registers numbered `first`, `first + 1`, … (`count` of them). -/
def State.getVs (s : State) (first : Nat) : Nat → List Byte
  | 0 => []
  | n + 1 => s.getV (BitVec.ofNat 4 first) :: s.getVs (first + 1) n

/-- Writes values to the registers numbered `first`, `first + 1`, …. -/
def State.setVs (s : State) (first : Nat) : List Byte → State
  | [] => s
  | b :: bs => (s.setV (BitVec.ofNat 4 first) b).setVs (first + 1) bs

/-! ## The PC and faults -/

/-- `Advance(n)`: past 0xFFFF the loop halts and PC stays (40_cycle_loop.md R104). -/
def State.advance (s : State) (n : Nat) : State :=
  if 0xFFFF < s.pc.toNat + n then s.setRun (.halted .pcOverflow)
  else s.setPc (BitVec.ofNat 16 (s.pc.toNat + n))

/-- A skip: `Advance(4)` when the condition holds, else `Advance(2)` (40_cycle_loop.md R103). -/
def State.skipIf (s : State) (cond : Bool) : State := if cond then s.advance 4 else s.advance 2

/-- `raise F(info)`: taking a fault. Only `run` changes; PC keeps the address of the faulting instruction, nothing
is saved elsewhere and no handler runs (60_exceptions.md R221). There is no return from a fault (R223). -/
def State.raise (s : State) (f : FaultKind) (word : Option Word) (info : Option Nat) : State :=
  s.setRun (.faulted f s.pc word info)

/-- The code of a fault (60_exceptions.md R220; D29). -/
def FaultKind.code : FaultKind → Nat
  | .stackOverflow => 2
  | .stackUnderflow => 3
  | .addressOutOfRange => 4
  | .reservedMemoryWrite => 5
  | .inputPortFailure => 6
  | .displayPortFailure => 7
  | .soundPortFailure => 8

/-- `Fetch()`: the word at PC, or the address that is outside memory (40_cycle_loop.md R101). -/
def State.fetch (s : State) : Except Nat Word :=
  if 4096 ≤ s.pc.toNat then .error s.pc.toNat
  else if s.pc.toNat = 4095 then .error 4096
  else .ok (wordOfBytes (s.readByte s.pc.toNat) (s.readByte (s.pc.toNat + 1)))

/-! ## The stack -/

/-- SP holds one of its legal values 0..16 (10_state.md R31). -/
def State.spLegal (s : State) : Bool := decide (s.sp.toNat ≤ 16)

/-- `Push(v)`, or none when all 16 slots are full (41_control_flow.md R120). -/
def State.push (s : State) (v : Word) : Option State :=
  if h : s.sp.toNat < 16 then some (s.setStack (s.sp + 1) (s.stack.set s.sp.toNat v)) else none

/-- `Pop()`: the value and the state after, or none when the stack is empty (41_control_flow.md R121). The slot
keeps its value. Used where SP is legal; above 16 it is none too. -/
def State.pop (s : State) : Option (Word × State) :=
  if h : 0 < s.sp.toNat ∧ s.sp.toNat ≤ 16 then
    some (s.stack[s.sp.toNat - 1]'(by omega), s.setStack (s.sp - 1) s.stack)
  else none

/-! ## Host draws (00_scope.md R15) -/

/-- `HostRandomByte()`: the next pending byte, or a free one (44_random_timers_input.md R180; log 2). -/
def State.drawRandom (s : State) : Byte × State :=
  match s.host.randoms with
  | r :: rs => (r, s.setHost { s.host with randoms := rs })
  | [] => (Config.freeByte s.host.drawn, s.setHost { s.host with drawn := s.host.drawn + 1 })

/-- A sample of the 16 keys for `HostKeyPressed` (44_random_timers_input.md R185; log 2). -/
def State.drawKeys (s : State) : BitVec 16 × State :=
  match s.host.keys with
  | k :: ks => (k, s.setHost { s.host with keys := ks })
  | [] => (Config.freeKeys s.host.drawn, s.setHost { s.host with drawn := s.host.drawn + 1 })

/-- `HostPortOk`: the outcome of a port call (60_exceptions.md R246; log 2). -/
def State.drawPortOk (s : State) : Bool × State :=
  match s.host.portOks with
  | p :: ps => (p, s.setHost { s.host with portOks := ps })
  | [] => (Config.freePortOk s.host.drawn, s.setHost { s.host with drawn := s.host.drawn + 1 })

/-- The scheduler's choice of the next step (60_exceptions.md R226; log 3). -/
def State.drawEvent (s : State) : Event × State :=
  match s.host.events with
  | e :: es => (e, s.setHost { s.host with events := es })
  | [] => (Config.freeEvent s.host.drawn, s.setHost { s.host with drawn := s.host.drawn + 1 })

/-! ## The framebuffer -/

/-- The pixel at column `x` and row `y`, wrapped (45_display.md R200). -/
def pixel (f : Framebuffer) (x y : Nat) : Bool :=
  (f[y % 32]'(by omega))[x % 64]'(by omega)

/-- `toggle_pixel(x, y)`: wraps, flips, and gives the prior value (45_display.md R200). -/
def togglePixel (f : Framebuffer) (x y : Nat) : Framebuffer × Bool :=
  (f.set (y % 32) ((f[y % 32]'(by omega)).set (x % 64) (!pixel f x y) (by omega)) (by omega), pixel f x y)

/-- The columns of a sprite byte, left to right: column `i` is bit `7 - i` (45_display.md R201). -/
def spriteColumns : List Nat := [0, 1, 2, 3, 4, 5, 6, 7]

/-- `draw_byte(b, x, y)`: toggles the pixel of every 1 bit, and says whether one was on (45_display.md R201). -/
def drawByte (f : Framebuffer) (b : Byte) (x y : Nat) : Framebuffer × Bool :=
  spriteColumns.foldl
    (fun acc i =>
      if b.getLsbD (7 - i) then ((togglePixel acc.1 (x + i) y).1, acc.2 || (togglePixel acc.1 (x + i) y).2)
      else acc)
    (f, false)

/-- `clear()` (45_display.md R202). -/
def clearFb : Framebuffer := Vector.replicate 32 (Vector.replicate 64 false)

/-- `DisplayPush()`: hands over the snapshot; the port's outcome is a host draw (45_display.md R205). -/
def State.displayPush (s : State) : Bool × State := (s.setShown s.fb).drawPortOk

/-- Draws the rows of a sprite downward from row `y`, a push after each (45_display.md R204). Gives the state and
the collision, or none for it when a push failed: the rows drawn until then stay. -/
def State.drawRows (s : State) (x y : Nat) (collided : Bool) : List Byte → State × Option Bool
  | [] => (s, some collided)
  | b :: bs =>
    match (s.setFb (drawByte s.fb b x y).1).displayPush with
    | (true, s') => s'.drawRows x (y + 1) (collided || (drawByte s.fb b x y).2) bs
    | (false, s') => (s', none)

/-! ## The sound timer and its port -/

/-- Writes ST and then `UpdateSound()`: a SoundPort call only where `sound_on` changes (10_state.md R41). Gives
whether the call, if any, succeeded. -/
def State.writeSt (s : State) (b : Byte) : Bool × State :=
  if s.st = 0 ∧ b ≠ 0 then ((s.setSt b).addSound (.start Config.soundFreqHz)).drawPortOk
  else if s.st ≠ 0 ∧ b = 0 then ((s.setSt b).addSound .stop).drawPortOk
  else (true, s.setSt b)

end Sys2Proof.Machine
end

