-- ==== Sys2Proof/Machine/Boot.lean ====
section
/-! DEFINITION. The ProgramLoader's side of reset (70_reset_and_hazards.md R260-R263; 20_memory.md R54; log 14). -/

namespace Sys2Proof.Machine

/-- The longest program image (20_memory.md R54). -/
def maxImage : Nat := 3584

/-- The launch state of an image under a configuration; none for an image that does not fit, for which the machine
never starts (70_reset_and_hazards.md R263). -/
def boot (c : Config) (image : List Byte) : Option State :=
  if image.length ≤ maxImage then some ((State.resetWith c).writeBytes programBase image) else none

/-- Stores a word where it is fetched from, the high byte first (20_memory.md R55). -/
def State.storeWord (s : State) (a : Nat) (w : Word) : State := s.writeBytes a [hiByte w, loByte w]

/-- Makes the Core's iteration the next step: `run` is Running and the scheduler picks the Core (log 14). -/
def State.coreNext (s : State) : State :=
  (s.setRun .running).setHost { s.host with events := .core :: s.host.events }

end Sys2Proof.Machine
end

