-- ==== Sys2Proof/Machine/Operands.lean ====
section
/-! DEFINITION. Every operand form that is more than a register or an immediate field, and the effects the operand
forms carry (files 41 to 45 of spec/). -/

namespace Sys2Proof.Machine

/-- The shift source: `V[x]`, or `V[y]` under `SHIFT_SOURCE = VY` (42_arithmetic_logic.md R146, R148). -/
def State.shiftSource (s : State) (x y : Reg) : Byte :=
  match s.cfg.shiftSource with
  | .vx => s.getV x
  | .vy => s.getV y

/-- The jump offset of `BNNN`: V0, or `V[x]` with `x = nnn[11:8]` under `JUMP_OFFSET_REG = VX`
(41_control_flow.md R123). -/
def State.jumpOffset (s : State) (nnn : Addr12) : Byte :=
  match s.cfg.jumpOffsetReg with
  | .v0 => s.getV 0
  | .vx => s.getV (nnn.extractLsb' 8 4)

/-- `zext_16(nnn)` (30_encoding.md R72). -/
def absTarget (nnn : Addr12) : Word := nnn.setWidth 16

/-- The target of `BNNN`: no wrap, no mask (41_control_flow.md R123). -/
def State.offsetTarget (s : State) (nnn : Addr12) : Word :=
  BitVec.ofNat 16 (nnn.toNat + (s.jumpOffset nnn).toNat)

/-- The address of a built-in digit sprite: the low nibble of the value is the digit (43_transfer.md R163; D4). -/
def fontAddress (c : Config) (v : Byte) : Word := BitVec.ofNat 16 (c.fontBase.val + 5 * (v.toNat % 16))

/-- `IUpdate(x)` (43_transfer.md R167). -/
def State.updateI (s : State) (x : Reg) : State :=
  match s.cfg.rangeIMode with
  | .unchanged => s
  | .addXPlus1 => s.setI (BitVec.ofNat 16 (s.i.toNat + x.toNat + 1))
  | .addX => s.setI (BitVec.ofNat 16 (s.i.toNat + x.toNat))

/-- An 8-bit result and its flag, the flag written last (10_state.md R22). -/
def State.setWithFlag (s : State) (x : Reg) (result : Byte) (flag : Bool) : State :=
  (s.setV x result).setFlag flag

/-- A key skip: the key index is `V[x]`; above 15 it faults with no port call; then the InputPort's outcome; then
one sample of the key state. `want` is the key state that skips (44_random_timers_input.md R184-R186). -/
def State.keySkip (s : State) (x : Reg) (want : Bool) (w : Word) : State :=
  if 15 < (s.getV x).toNat then s.raise .inputPortFailure (some w) (some (s.getV x).toNat)
  else
    match s.drawPortOk with
    | (false, s1) => s1.raise .inputPortFailure (some w) (some (s.getV x).toNat)
    | (true, s1) => s1.drawKeys.2.skipIf (s1.drawKeys.1.getLsbD (s.getV x).toNat == want)

end Sys2Proof.Machine
end

