-- ==== Sys2Proof/Machine/Arith.lean ====
section
/-! DEFINITION. Arithmetic and logic (42_arithmetic_logic.md). Operands are read first, the flag is written last
(10_state.md R22, R23). -/

namespace Sys2Proof.Machine

/-- ADD Vx, nn (R140): the flag only under `ADD_IMM_SETS_VF`. -/
def execAddImm (x : Reg) (nn : Byte) (s : State) : Host.Outcome State Fault Refusal :=
  .next ((if s.cfg.addImmSetsVf then s.setWithFlag x (add8 (s.getV x) nn) (carry8 (s.getV x) nn)
    else s.setV x (add8 (s.getV x) nn)).advance 2)

/-- OR Vx, Vy (R141). -/
def execOr (x y : Reg) (s : State) : Host.Outcome State Fault Refusal :=
  .next ((s.setV x (s.getV x ||| s.getV y)).advance 2)

/-- AND Vx, Vy (R142). -/
def execAnd (x y : Reg) (s : State) : Host.Outcome State Fault Refusal :=
  .next ((s.setV x (s.getV x &&& s.getV y)).advance 2)

/-- XOR Vx, Vy (R143). -/
def execXor (x y : Reg) (s : State) : Host.Outcome State Fault Refusal :=
  .next ((s.setV x (s.getV x ^^^ s.getV y)).advance 2)

/-- ADD Vx, Vy (R144). -/
def execAddReg (x y : Reg) (s : State) : Host.Outcome State Fault Refusal :=
  .next ((s.setWithFlag x (add8 (s.getV x) (s.getV y)) (carry8 (s.getV x) (s.getV y))).advance 2)

/-- SUB Vx, Vy: `Vx - Vy` (R145). -/
def execSub (x y : Reg) (s : State) : Host.Outcome State Fault Refusal :=
  .next ((s.setWithFlag x (sub8 (s.getV x) (s.getV y)) (notBorrow8 (s.getV x) (s.getV y))).advance 2)

/-- SHR Vx (R146). -/
def execShr (x y : Reg) (s : State) : Host.Outcome State Fault Refusal :=
  .next ((s.setWithFlag x (shr8 (s.shiftSource x y)) (shrOut (s.shiftSource x y))).advance 2)

/-- SUBN Vx, Vy: `Vy - Vx` (R147). -/
def execSubn (x y : Reg) (s : State) : Host.Outcome State Fault Refusal :=
  .next ((s.setWithFlag x (sub8 (s.getV y) (s.getV x)) (notBorrow8 (s.getV y) (s.getV x))).advance 2)

/-- SHL Vx (R148). -/
def execShl (x y : Reg) (s : State) : Host.Outcome State Fault Refusal :=
  .next ((s.setWithFlag x (shl8 (s.shiftSource x y)) (shlOut (s.shiftSource x y))).advance 2)

/-- ADD I, Vx (R149): VF per `ADD_I_VF`. -/
def execAddI (x : Reg) (s : State) : Host.Outcome State Fault Refusal :=
  .next ((match addIFlag s.cfg.addIVf s.i (s.getV x) with
    | some f => (s.setI (addI16 s.i (s.getV x))).setFlag f
    | none => s.setI (addI16 s.i (s.getV x))).advance 2)

end Sys2Proof.Machine
end

