-- ==== Sys2Proof/Machine/Control.lean ====
section
/-! DEFINITION. Control flow and the stack (41_control_flow.md). -/

namespace Sys2Proof.Machine

/-- JP nnn (R122). The target is not checked (R131). -/
def execJp (nnn : Addr12) (s : State) : Host.Outcome State Fault Refusal :=
  .next (s.setPc (absTarget nnn))

/-- JP V0, nnn (R123). -/
def execJpV0 (nnn : Addr12) (s : State) : Host.Outcome State Fault Refusal :=
  .next (s.setPc (s.offsetTarget nnn))

/-- CALL nnn: pushes the address of the CALL itself (R124; D7); a full stack faults (R120). -/
def execCall (nnn : Addr12) (s : State) : Host.Outcome State Fault Refusal :=
  if s.spLegal then
    match s.push s.pc with
    | some s' => .next (s'.setPc (absTarget nnn))
    | none => .next (s.raise .stackOverflow (some (encode (.call nnn))) (some s.pc.toNat))
  else .fault .stackPointerIllegal

/-- RET: pops PC and advances past the CALL (R125; D7); an empty stack faults (R121). -/
def execRet (s : State) : Host.Outcome State Fault Refusal :=
  if s.spLegal then
    match s.pop with
    | some (target, s') => .next ((s'.setPc target).advance 2)
    | none => .next (s.raise .stackUnderflow (some (encode .ret)) (some s.pc.toNat))
  else .fault .stackPointerIllegal

/-- SE Vx, nn (R126). -/
def execSeImm (x : Reg) (nn : Byte) (s : State) : Host.Outcome State Fault Refusal :=
  .next (s.skipIf (s.getV x == nn))

/-- SNE Vx, nn (R127). -/
def execSneImm (x : Reg) (nn : Byte) (s : State) : Host.Outcome State Fault Refusal :=
  .next (s.skipIf (s.getV x != nn))

/-- SE Vx, Vy (R128). -/
def execSeReg (x y : Reg) (s : State) : Host.Outcome State Fault Refusal :=
  .next (s.skipIf (s.getV x == s.getV y))

/-- SNE Vx, Vy (R129). -/
def execSneReg (x y : Reg) (s : State) : Host.Outcome State Fault Refusal :=
  .next (s.skipIf (s.getV x != s.getV y))

end Sys2Proof.Machine
end

