-- ==== Sys2Proof/Machine/Display.lean ====
section
/-! DEFINITION. The display instructions (45_display.md). -/

namespace Sys2Proof.Machine

/-- CLS: clears, pushes, advances; a failed push leaves the screen clear and PC unchanged (R203;
60_exceptions.md R247). -/
def execCls (s : State) : Host.Outcome State Fault Refusal :=
  .next (match (s.setFb clearFb).displayPush with
    | (true, s') => s'.advance 2
    | (false, s') => s'.raise .displayPortFailure (some (encode .cls)) none)

/-- DRW Vx, Vy, n: the address check, the rows, the collision flag; a failed push keeps the rows drawn and leaves
VF and PC (R204; 60_exceptions.md R247). -/
def execDrw (x y : Reg) (n : Nibble) (s : State) : Host.Outcome State Fault Refusal :=
  .next (match readFault s.i.toNat n.toNat with
    | some (f, a) => s.raise f (some (encode (.drw x y n))) (some a)
    | none =>
      match s.drawRows (s.getV x).toNat (s.getV y).toNat false (s.readBytes s.i.toNat n.toNat) with
      | (s', some collided) => (s'.setFlag collided).advance 2
      | (s', none) => s'.raise .displayPortFailure (some (encode (.drw x y n))) none)

end Sys2Proof.Machine
end

