-- ==== Sys2Proof/Machine/System.lean ====
section
/-! DEFINITION. The halt sentinel, the invalid words and host cancellation (40_cycle_loop.md R105, R106, R110). -/

namespace Sys2Proof.Machine

/-- An `Invalid` word: a diagnostic and `Advance(2)`, never a fault (40_cycle_loop.md R106, R107). -/
def invalidWord (w : Word) (s : State) : State := (s.addDiag (.invalidInstruction s.pc w)).advance 2

/-- HALT: no PC update. With `HALT_ON_ZERO` false, `0000` is an `Invalid` word (40_cycle_loop.md R105; log 15). -/
def execHalt (s : State) : Host.Outcome State Fault Refusal :=
  .next (if s.cfg.haltOnZero then s.setRun (.halted .haltSentinel) else invalidWord (encode .halt) s)

/-- Host cancellation (40_cycle_loop.md R110). -/
def cancelRun (s : State) : State := s.setRun (.halted .cancelled)

end Sys2Proof.Machine
end

