-- ==== Sys2Proof/Machine/TimerInput.lean ====
section
/-! DEFINITION. Random, timer and input instructions (44_random_timers_input.md), the Timer agent's steps
(60_exceptions.md R240-R244) and the steps that leave a key wait (R188, R189). -/

namespace Sys2Proof.Machine

/-- RND Vx, nn: a host draw masked (R180). -/
def execRnd (x : Reg) (nn : Byte) (s : State) : Host.Outcome State Fault Refusal :=
  .next ((s.drawRandom.2.setV x (s.drawRandom.1 &&& nn)).advance 2)

/-- LD Vx, DT (R181). -/
def execLdVxDt (x : Reg) (s : State) : Host.Outcome State Fault Refusal :=
  .next ((s.setV x s.dt).advance 2)

/-- LD DT, Vx (R182). -/
def execLdDt (x : Reg) (s : State) : Host.Outcome State Fault Refusal :=
  .next ((s.setDt (s.getV x)).advance 2)

/-- LD ST, Vx: the write, the sound update, then the advance; a failed SoundPort call keeps ST and PC stays
(R183; 60_exceptions.md R248). -/
def execLdSt (x : Reg) (s : State) : Host.Outcome State Fault Refusal :=
  .next (match s.writeSt (s.getV x) with
    | (true, s') => s'.advance 2
    | (false, s') => s'.raise .soundPortFailure (some (encode (.ldSt x))) none)

/-- SKP Vx (R185). -/
def execSkp (x : Reg) (s : State) : Host.Outcome State Fault Refusal :=
  .next (s.keySkip x true (encode (.skp x)))

/-- SKNP Vx (R186). -/
def execSknp (x : Reg) (s : State) : Host.Outcome State Fault Refusal :=
  .next (s.keySkip x false (encode (.sknp x)))

/-- LD Vx, K: starts the wait; PC stays at this FX0A (R187). -/
def execLdVxK (x : Reg) (s : State) : Host.Outcome State Fault Refusal :=
  .next (s.setRun (.waitingForKey x))

/-- A key-down event: it completes a waiting FX0A (R188). With no wait it has no effect on the CORE (log 4). -/
def keyDownEvent (k : Nibble) (s : State) : State :=
  match s.run with
  | .waitingForKey x => ((s.setV x (k.setWidth 8)).setRun .running).advance 2
  | _ => s

/-- An InputPort poll that fails: it faults a waiting FX0A, with no key known (R189; 60_exceptions.md R247). With no
wait there is no poll (log 4). -/
def pollFailEvent (s : State) : State :=
  match s.run with
  | .waitingForKey x => s.raise .inputPortFailure (some (encode (.ldVxK x))) none
  | _ => s

/-- `TickDT` (60_exceptions.md R240). -/
def tickDT (s : State) : State := if 0 < s.dt.toNat then s.setDt (s.dt - 1) else s

/-- `TickST`, with the sound update; a failed `stop()` faults with no word (60_exceptions.md R240, R244). -/
def tickST (s : State) : State :=
  if 0 < s.st.toNat then
    match s.writeSt (s.st - 1) with
    | (true, s') => s'
    | (false, s') => s'.raise .soundPortFailure none none
  else s

end Sys2Proof.Machine
end

