-- ==== Sys2Proof/Machine/Transfer.lean ====
section
/-! DEFINITION. Memory and register transfer (43_transfer.md). Every address is checked before any access
(20_memory.md R60). -/

namespace Sys2Proof.Machine

/-- LD Vx, nn (R160). -/
def execLdImm (x : Reg) (nn : Byte) (s : State) : Host.Outcome State Fault Refusal :=
  .next ((s.setV x nn).advance 2)

/-- LD Vx, Vy (R161). -/
def execLdReg (x y : Reg) (s : State) : Host.Outcome State Fault Refusal :=
  .next ((s.setV x (s.getV y)).advance 2)

/-- LD I, nnn (R162). -/
def execLdI (nnn : Addr12) (s : State) : Host.Outcome State Fault Refusal :=
  .next ((s.setI (absTarget nnn)).advance 2)

/-- LD F, Vx (R163). -/
def execLdF (x : Reg) (s : State) : Host.Outcome State Fault Refusal :=
  .next ((s.setI (fontAddress s.cfg (s.getV x))).advance 2)

/-- LD B, Vx: three decimal digits at I (R164). -/
def execLdB (x : Reg) (s : State) : Host.Outcome State Fault Refusal :=
  .next (match writeFault s.cfg s.i.toNat 3 with
    | some (f, a) => s.raise f (some (encode (.ldB x))) (some a)
    | none => (s.writeBytes s.i.toNat (bcdDigits (s.getV x))).advance 2)

/-- SAVEREG Vx: V0..Vx to memory at I (R165). -/
def execSaveReg (x : Reg) (s : State) : Host.Outcome State Fault Refusal :=
  .next (match writeFault s.cfg s.i.toNat (x.toNat + 1) with
    | some (f, a) => s.raise f (some (encode (.saveReg x))) (some a)
    | none => ((s.writeBytes s.i.toNat (s.getVs 0 (x.toNat + 1))).updateI x).advance 2)

/-- LOADREG Vx: memory at I to V0..Vx (R166). -/
def execLoadReg (x : Reg) (s : State) : Host.Outcome State Fault Refusal :=
  .next (match readFault s.i.toNat (x.toNat + 1) with
    | some (f, a) => s.raise f (some (encode (.loadReg x))) (some a)
    | none => ((s.setVs 0 (s.readBytes s.i.toNat (x.toNat + 1))).updateI x).advance 2)

end Sys2Proof.Machine
end

