-- ==== Sys2Proof/Machine/Step.lean ====
section
/-! DEFINITION. One step of the machine: the scheduler picks an agent, and that agent makes its step
(60_exceptions.md R226; 40_cycle_loop.md R100, R109-R113). -/

namespace Sys2Proof.Machine

/-- One iteration of the Core: fetch, decode, execute (40_cycle_loop.md R100). -/
def coreIteration (s : State) : Host.Outcome State Fault Refusal :=
  match s.fetch with
  | .error a => .next (s.raise .addressOutOfRange none (some a))
  | .ok w =>
    match decode s.cfg.haltOnZero w with
    | .ok i => exec i s
    | .error _ => .next (invalidWord w s)

/-- The Core's turn: an iteration while `run` is Running; none during a key wait, whose poll finds nothing
(40_cycle_loop.md R100, R113; log 4). -/
def coreTurn (s : State) : Host.Outcome State Fault Refusal :=
  match s.run with
  | .running => coreIteration s
  | _ => .next s

/-- What an event does (60_exceptions.md R226). -/
def takeEvent (e : Event) (s : State) : Host.Outcome State Fault Refusal :=
  match e with
  | .core => coreTurn s
  | .tickDT => .next (tickDT s)
  | .tickST => .next (tickST s)
  | .cancel => .next (cancelRun s)
  | .keyDown k => .next (keyDownEvent k s)
  | .pollFail => .next (pollFailEvent s)

/-- One step of the machine. After `Halted` or `Faulted` no agent has one (40_cycle_loop.md R112; log 5). -/
def step (s : State) : Host.Outcome State Fault Refusal :=
  match s.run with
  | .halted _ => .fault .runEnded
  | .faulted _ _ _ _ => .fault .runFaulted
  | .running => takeEvent s.drawEvent.1 s.drawEvent.2
  | .waitingForKey _ => takeEvent s.drawEvent.1 s.drawEvent.2

/-- `s` with the table's word stored at PC and the Core's iteration next, so that the next step fetches and runs
exactly it (log 14). -/
def State.withFetchWord (s : State) (nbits w : Nat) : State :=
  (s.storeWord s.pc.toNat (tableWord nbits w)).coreNext

end Sys2Proof.Machine
end

