-- ==== Sys2Proof/Machine/Runs.lean ====
section
/-! DEFINITION. Runs of the machine, and the fairness of the Timer agent (60_exceptions.md R242; logs 20, 21). A run is a
sequence of states, never a field of one. -/

namespace Sys2Proof.Machine

/-- `r` is a run without end: each state has a step, and the state after it is what the step gave, into which the Host
may have put new inputs meanwhile. A state that is Halted or Faulted has no step, so such a run never halts or faults
(40_cycle_loop.md R112). -/
def IsRun (r : Nat → State) : Prop :=
  ∀ n, ∃ t h, step (r n) = .next t ∧ r (n + 1) = t.setHost h

/-- The event comes up infinitely often in the run. -/
def InfinitelyOften (e : Event) (r : Nat → State) : Prop := ∀ n, ∃ m, n ≤ m ∧ (r m).drawEvent.1 = e

/-- The fairness assumption: in a run that never halts or faults the Timer agent ticks infinitely often, each of its
two independent steps (60_exceptions.md R240, R242; DEDUCED, log 20). It is a premise: a claim that waits on a timer takes
it. DESIGN CHOICE, safe (log 21): it asks no turn of the Core, so a run of ticks alone is fair; a claim that a program
gets on, such as that one halts, also takes `InfinitelyOften .core r`. -/
def FairRun (r : Nat → State) : Prop := IsRun r ∧ InfinitelyOften .tickDT r ∧ InfinitelyOften .tickST r

/-- How often the event came up in the first `n` steps of the run. -/
def countEvent (e : Event) (r : Nat → State) : Nat → Nat
  | 0 => 0
  | n + 1 => countEvent e r n + (if (r n).drawEvent.1 = e then 1 else 0)

/-- The next step runs an FX15, the one instruction that writes DT (10_state.md R33). -/
def State.writesDt (s : State) : Prop :=
  s.run = .running ∧ s.drawEvent.1 = .core ∧ ∃ x, s.fetch = .ok (encode (.ldDt x))

/-- The next step runs an FX18, the one instruction that writes ST (10_state.md R34). -/
def State.writesSt (s : State) : Prop :=
  s.run = .running ∧ s.drawEvent.1 = .core ∧ ∃ x, s.fetch = .ok (encode (.ldSt x))

end Sys2Proof.Machine
end

