-- ==== Sys2Proof/Safety.lean ====
section
/-! DEFINITION. The terms claims use: the parts of a state and frames over them, what an advance is, the sprite a
draw covers, the invariant every step keeps, and how a run ends. -/

namespace Sys2Proof.Machine

/-- A part of the state that a frame speaks about. -/
inductive Part where
  | reg (x : Reg)
  | i
  | pc
  | sp
  | slot (k : Fin 16)
  | dt
  | st
  | fb
  | byte (a : Nat)
  | run
  | diag
  | sound
  | shown
  | cfg
  | events
  | randoms
  | keys
  | portOks
  | drawn
  deriving DecidableEq, Repr

/-- The part holds the same in both states. -/
def Part.Same (p : Part) (s t : State) : Prop :=
  match p with
  | .reg x => t.getV x = s.getV x
  | .i => t.i = s.i
  | .pc => t.pc = s.pc
  | .sp => t.sp = s.sp
  | .slot k => t.stack[k] = s.stack[k]
  | .dt => t.dt = s.dt
  | .st => t.st = s.st
  | .fb => t.fb = s.fb
  | .byte a => t.readByte a = s.readByte a
  | .run => t.run = s.run
  | .diag => t.diag = s.diag
  | .sound => t.sound = s.sound
  | .shown => t.shown = s.shown
  | .cfg => t.cfg = s.cfg
  | .events => t.host.events = s.host.events
  | .randoms => t.host.randoms = s.host.randoms
  | .keys => t.host.keys = s.host.keys
  | .portOks => t.host.portOks = s.host.portOks
  | .drawn => t.host.drawn = s.host.drawn

/-- A frame: every part outside `may` is the same in both states. -/
def ChangesOnly (may : Part → Prop) (s t : State) : Prop := ∀ p, ¬ may p → p.Same s t

/-- A frame that names the parts that may change. -/
def ChangesOnlyIn (parts : List Part) (s t : State) : Prop := ChangesOnly (· ∈ parts) s t

/-- A frame of an instruction that stores `count` bytes from address `a`: the parts named and those bytes. -/
def StoresOnly (parts : List Part) (a count : Nat) (s t : State) : Prop :=
  ChangesOnly (fun p => p ∈ parts ∨ ∃ k, k < count ∧ p = .byte (a + k)) s t

/-- The PC moved on by `n` and the loop goes on as before, wherever `PC + n` is a PC value (10_state.md R28;
40_cycle_loop.md R104). What happens past 0xFFFF is said by `AdvancedOrHalted`, in a claim of its own. -/
def AdvancesBy (n : Nat) (s t : State) : Prop :=
  s.pc.toNat + n ≤ 0xFFFF → t.pc.toNat = s.pc.toNat + n ∧ t.run = s.run

/-- A skip: an advance by 4 where the condition holds, else by 2 (40_cycle_loop.md R103). -/
def SkipsWhen (cond : Prop) (s t : State) : Prop :=
  (cond → AdvancesBy 4 s t) ∧ (¬ cond → AdvancesBy 2 s t)

/-- The whole of `Advance(n)` for a PC that starts at `pc`: it moves on and `run` stays Running, or, past 0xFFFF, the
loop halts and the PC stays where the advance began (40_cycle_loop.md R104; D41). -/
def AdvancedOrHalted (n : Nat) (pc : Word) (t : State) : Prop :=
  (pc.toNat + n ≤ 0xFFFF ∧ t.run = .running ∧ t.pc.toNat = pc.toNat + n) ∨
    (0xFFFF < pc.toNat + n ∧ t.run = .halted .pcOverflow ∧ t.pc = pc)

/-- The instructions that skip, and so may advance by 4 (40_cycle_loop.md R103). -/
def mayAdvanceBy4 : Instr → Bool
  | .seImm _ _ | .sneImm _ _ | .seReg _ _ | .sneReg _ _ | .skp _ | .sknp _ => true
  | .halt | .cls | .ret | .jp _ | .call _ | .ldImm _ _ | .addImm _ _ | .ldReg _ _ | .or _ _ | .and _ _ => false
  | .xor _ _ | .addReg _ _ | .sub _ _ | .shr _ _ | .subn _ _ | .shl _ _ | .ldI _ | .jpV0 _ | .rnd _ _ => false
  | .drw _ _ _ | .ldVxDt _ | .ldVxK _ | .ldDt _ | .ldSt _ | .addI _ | .ldF _ | .ldB _ => false
  | .saveReg _ | .loadReg _ => false

/-- The instructions other than CALL and RET whose rule gives them a fault when they execute (files 43 to 45 of
spec/). -/
def mayFault : Instr → Bool
  | .cls | .drw _ _ _ | .skp _ | .sknp _ | .ldSt _ | .ldB _ | .saveReg _ | .loadReg _ => true
  | .halt | .ret | .jp _ | .call _ | .seImm _ _ | .sneImm _ _ | .seReg _ _ | .ldImm _ _ | .addImm _ _ => false
  | .ldReg _ _ | .or _ _ | .and _ _ | .xor _ _ | .addReg _ _ | .sub _ _ | .shr _ _ | .subn _ _ | .shl _ _ => false
  | .sneReg _ _ | .ldI _ | .jpV0 _ | .rnd _ _ | .ldVxDt _ | .ldVxK _ | .ldDt _ | .addI _ | .ldF _ => false

/-- A fault was entered at `s`: only `run` differs, and it records the fault (60_exceptions.md R221). -/
def EntersFault (f : FaultKind) (word : Option Word) (info : Option Nat) (s t : State) : Prop :=
  t.run = .faulted f s.pc word info ∧ ChangesOnlyIn [.run] s t

/-- The word is the one encoding of the instruction, whatever the configuration. -/
def DecodesTo (w : Word) (i : Instr) : Prop := ∀ haltOnZero, decode haltOnZero w = .ok i

/-- A 1 bit of the sprite of `n` rows, `row r` its bytes, drawn at column `cx` and row `cy`, falls on the pixel
(`px`, `py`), with wrap (45_display.md R200, R201, R204). -/
def SpriteCovers (row : Nat → Byte) (n cx cy px py : Nat) : Prop :=
  ∃ r i, r < n ∧ i < 8 ∧ (row r).getLsbD (7 - i) = true ∧ (cx + i) % 64 = px ∧ (cy + r) % 32 = py

/-- The byte of row `r` of a sprite at I (45_display.md R204). -/
def State.spriteRow (s : State) (r : Nat) : Byte := s.readByte (s.i.toNat + r)

/-- `t` shows `s` with the `n` rows of the sprite at I drawn at (`cx`, `cy`): exactly the covered pixels are flipped. -/
def DrawsSprite (n cx cy : Nat) (s t : State) : Prop :=
  ∀ px py, px < 64 → py < 32 →
    (pixel t.fb px py ≠ pixel s.fb px py ↔ SpriteCovers s.spriteRow n cx cy px py)

/-- Some covered pixel was on: a collision (45_display.md R204). -/
def SpriteCollides (n cx cy : Nat) (s : State) : Prop :=
  ∃ px py, px < 64 ∧ py < 32 ∧ SpriteCovers s.spriteRow n cx cy px py ∧ pixel s.fb px py = true

/-- The next `n` port calls all succeed (60_exceptions.md R246). -/
def State.nextPortsOk (s : State) : Nat → Prop
  | 0 => True
  | n + 1 => s.drawPortOk.1 = true ∧ s.drawPortOk.2.nextPortsOk n

/-- The state after the outcomes of `n` port calls are drawn. -/
def State.afterPorts (s : State) : Nat → State
  | 0 => s
  | n + 1 => s.drawPortOk.2.afterPorts n

/-- What `RANGE_I_MODE` makes of I after a register range (43_transfer.md R167). -/
def RangeI (x : Reg) (s t : State) : Prop :=
  match s.cfg.rangeIMode with
  | .unchanged => t.i = s.i
  | .addXPlus1 => t.i.toNat = (s.i.toNat + x.toNat + 1) % 65536
  | .addX => t.i.toNat = (s.i.toNat + x.toNat) % 65536

/-- The `count` addresses from I may be stored to: inside memory, and above the reserved region unless
`LOW_MEMORY_WRITE` is `WRITE` (20_memory.md R59, R60). -/
def State.storeAllowed (s : State) (count : Nat) : Prop :=
  s.i.toNat + count ≤ 4096 ∧ (512 ≤ s.i.toNat ∨ s.cfg.lowMemoryWrite = .write)

/-- The tone is playing: the last SoundPort call was a start (10_state.md R41). -/
def tonePlaying (calls : List SoundCall) : Bool :=
  match calls.getLast? with
  | some (.start _) => true
  | some .stop => false
  | none => false

/-- The invariant of the machine. -/
structure Inv (s : State) : Prop where
  /-- memory keeps its canonical form -/
  memWf : Memory.wf s.cfg s.mem = true
  /-- SP holds a legal value (10_state.md R31) -/
  spLegal : s.sp.toNat ≤ 16
  /-- every occupied slot holds the address of a CALL that was fetched (41_control_flow.md R124) -/
  returns : ∀ k : Fin 16, k.val < s.sp.toNat → s.stack[k].toNat < 4095
  /-- no target of a jump is above 0x10FE (41_control_flow.md R123) -/
  pcBound : s.pc.toNat ≤ 0x10FE
  /-- during a key wait PC stays at the FX0A (44_random_timers_input.md R187) -/
  waitsAtFx0A : ∀ x, s.run = .waitingForKey x → s.fetch = .ok (encode (.ldVxK x))
  /-- the halt at the end of the address space is never reached (10_state.md R29) -/
  noPcOverflow : s.run ≠ .halted .pcOverflow
  /-- PC keeps the address of the faulting step (60_exceptions.md R221) -/
  faultPc : ∀ f p w a, s.run = .faulted f p w a → p = s.pc
  /-- the recorded word is the one at that address -/
  faultWord : ∀ f p w a, s.run = .faulted f p (some w) a → s.fetch = .ok w
  /-- the SoundPort plays exactly while ST is not 0 (10_state.md R41) -/
  soundFollowsSt : tonePlaying s.sound = s.soundOn

/-- The run is not over: some agent may have a step (40_cycle_loop.md R111). -/
def State.live (s : State) : Prop := s.run = .running ∨ ∃ x, s.run = .waitingForKey x

/-- The run ended well: it halted, which a fault never is (40_cycle_loop.md R111). -/
def State.endedWell (s : State) : Prop := ∃ r, s.run = .halted r

/-- The transitions of `run` that one step may make, besides leaving it as it is: the rows of the table of
40_cycle_loop.md R109, and two that it lacks, `resumeOverflows` and `tickFails` (log 16). -/
inductive RunStep : State → Run → Prop where
  | waits (s : State) (x : Reg) (h : s.run = .running)
      (at_ : s.fetch = .ok (encode (.ldVxK x))) : RunStep s (.waitingForKey x)
  | resumes (s : State) (x : Reg) (h : s.run = .waitingForKey x) : RunStep s .running
  | sentinel (s : State) (h : s.run = .running) (z : s.cfg.haltOnZero = true)
      (at_ : s.fetch = .ok 0x0000) : RunStep s (.halted .haltSentinel)
  | overflow (s : State) (h : s.run = .running) : RunStep s (.halted .pcOverflow)
  /-- not in the table: the `Advance(2)` of a resume (44_random_timers_input.md R188, R104); `Inv` rules it out -/
  | resumeOverflows (s : State) (x : Reg) (h : s.run = .waitingForKey x) (past : 0xFFFF < s.pc.toNat + 2) :
      RunStep s (.halted .pcOverflow)
  | cancelled (s : State) (h : s.live) : RunStep s (.halted .cancelled)
  | faults (s : State) (f : FaultKind) (w : Option Word) (a : Option Nat) (h : s.run = .running) :
      RunStep s (.faulted f s.pc w a)
  | pollFails (s : State) (x : Reg) (h : s.run = .waitingForKey x) :
      RunStep s (.faulted .inputPortFailure s.pc (some (encode (.ldVxK x))) none)
  /-- not in the table: the failed stop of a `TickST` during the wait (60_exceptions.md R240, R241, R244) -/
  | tickFails (s : State) (x : Reg) (h : s.run = .waitingForKey x) :
      RunStep s (.faulted .soundPortFailure s.pc none none)

end Sys2Proof.Machine
end

