-- ==== Sys2Proof/Certificates/Slice0/Obligations.lean ====
section
/-! DEFINITION. The statements for the provers. Each docstring names the rule it formalises, and says where a clause
rests on a decision the spec marks as its own (D<n> of 92_eei_decisions.md) or on a choice of the model (log n);
log 11 lists the decisions, and the model follows each.
Every `DecodesTo` clause rests on the bit patterns of 30_encoding.md R74; all but those of HALT, CLS, JP, LD Vx, nn,
ADD Vx, nn and JP V0, nnn are the spec's general knowledge (G1, log 9). -/

open Sys2Proof Sys2Proof.Machine

/-! ### Reset and boot -/

/-- 10_state.md R42 and 20_memory.md R52-R54: what reset and the loader leave, under every configuration. The zeros
are the spec's decisions D2 and D5, the font's place D3 (logs 7, 8); only PC is the source's own value. -/
def Obligations.BootLeavesResetState : Prop :=
  ∀ (c : Config) (image : List Byte), image.length ≤ 3584 →
    ∃ s, boot c image = some s ∧ (∀ x, s.getV x = 0) ∧ s.i = 0 ∧ s.pc = 0x200 ∧ s.sp = 0 ∧
      (∀ k : Fin 16, s.stack[k] = 0) ∧ s.dt = 0 ∧ s.st = 0 ∧ s.soundOn = false ∧
      (∀ x y, x < 64 → y < 32 → pixel s.fb x y = false) ∧ s.run = .running ∧ s.diag = [] ∧ s.sound = [] ∧
      s.cfg = c ∧ (∀ k, k < image.length → s.readByte (512 + k) = image.getD k 0) ∧
      (∀ (d : Fin 16) (r : Fin 5), s.readByte (c.fontBase.val + 5 * d.val + r.val) = c.fontGlyphs[d][r]) ∧
      (∀ a, a < 4096 → ¬ (512 ≤ a ∧ a < 512 + image.length) →
        ¬ (c.fontBase.val ≤ a ∧ a < c.fontBase.val + 80) → s.readByte a = 0)

/-- 70_reset_and_hazards.md R263 (D31): an image over 3584 bytes has no launch state. -/
def Obligations.BootRefusesLongImage : Prop :=
  ∀ (c : Config) (image : List Byte), 3584 < image.length → boot c image = none

/-- The invariant holds at reset. -/
def Obligations.ResetMeetsInvariant : Prop := Inv State.reset

/-- The invariant holds at every launch state, whatever the image and the configuration. -/
def Obligations.LaunchMeetsInvariant : Prop :=
  ∀ (c : Config) (image : List Byte) (s : State), boot c image = some s → Inv s

/-- Every step keeps the invariant: canonical memory, a legal SP, return slots (D7) and PC in range, the key wait at
its FX0A, no halt at the end of the address space (10_state.md R29), the fault record at PC, the tone following ST
(R41). -/
def Obligations.StepKeepsInvariant : Prop := ∀ s t : State, Inv s → step s = .next t → Inv t

/-- 20_memory.md R51, R59 (D16): under `LOW_MEMORY_WRITE = FAULT` no step changes a byte below 512. -/
def Obligations.StepKeepsReservedRegion : Prop :=
  ∀ s t : State, s.cfg.lowMemoryWrite = .fault → step s = .next t → ∀ a, a < 512 → t.readByte a = s.readByte a

/-! ### Encoding -/

/-- 30_encoding.md R74, R80: decoding the word of an instruction that exists gives the instruction. -/
def Obligations.DecodeOfEncode : Prop :=
  ∀ (c : Config) (i : Instr), i.wellFormed c = true → decode c.haltOnZero (encode i) = .ok i

/-- 30_encoding.md R73: each word stands for at most one instruction, the one whose word it is. -/
def Obligations.EncodeOfDecode : Prop :=
  ∀ (h : Bool) (w : Word) (i : Instr), decode h w = .ok i → encode i = w

/-- 30_encoding.md R76 (D20, D38): the invalid words are those of the six rows of its table, each with its own name. -/
def Obligations.InvalidWordsAreTheSixPatterns : Prop :=
  ∀ (h : Bool) (w : Word),
    (decode h w = .error .group0 ↔ w.toNat < 0x1000 ∧ w ≠ 0x00E0 ∧ w ≠ 0x00EE ∧ (h = true → w ≠ 0x0000)) ∧
    (decode h w = .error .group5 ↔ w.toNat / 0x1000 = 0x5 ∧ w.toNat % 16 ≠ 0) ∧
    (decode h w = .error .group8 ↔
      w.toNat / 0x1000 = 0x8 ∧ (8 ≤ w.toNat % 16 ∧ w.toNat % 16 ≠ 0xE)) ∧
    (decode h w = .error .group9 ↔ w.toNat / 0x1000 = 0x9 ∧ w.toNat % 16 ≠ 0) ∧
    (decode h w = .error .groupE ↔ w.toNat / 0x1000 = 0xE ∧ w.toNat % 256 ≠ 0x9E ∧ w.toNat % 256 ≠ 0xA1) ∧
    (decode h w = .error .groupF ↔
      w.toNat / 0x1000 = 0xF ∧ w.toNat % 256 ∉ [0x07, 0x0A, 0x15, 0x18, 0x1E, 0x29, 0x33, 0x55, 0x65])

/-- 95_test_vectors.md V1 and the examples of the instruction rules: a few words, read as the spec reads them. -/
def Obligations.SpecWordsDecode : Prop :=
  decode true 0x0000 = .ok .halt ∧ decode false 0x0000 = .error .group0 ∧ DecodesTo 0x00E0 .cls ∧
    DecodesTo 0x1FFF (.jp 0xFFF) ∧ DecodesTo 0x5220 (.seReg 2 2) ∧ DecodesTo 0x800E (.shl 0 0) ∧
    DecodesTo 0x7003 (.addImm 0 3) ∧ DecodesTo 0xE0A1 (.sknp 0) ∧ DecodesTo 0xFF65 (.loadReg 15) ∧
    DecodesTo 0xDFF0 (.drw 15 15 0) ∧ DecodesTo 0xC30F (.rnd 3 0x0F) ∧ DecodesTo 0xA2F0 (.ldI 0x2F0)

/-! ### The step -/

/-- 40_cycle_loop.md R100-R102, 20_memory.md R55 (D1, D22): when the Core is next and the two bytes at PC, the first
the high one, decode to `i`, the step is `exec i` after the scheduler's choice is taken; that choice changes only the
model's own fields (log 3). -/
def Obligations.StepRunsDecodedInstruction : Prop :=
  ∀ (s : State) (i : Instr), s.run = .running → s.drawEvent.1 = .core → s.pc.toNat < 4095 →
    decode s.cfg.haltOnZero
      (BitVec.ofNat 16 (256 * (s.readByte s.pc.toNat).toNat + (s.readByte (s.pc.toNat + 1)).toNat)) = .ok i →
    step s = exec i s.drawEvent.2 ∧ ChangesOnlyIn [.events, .drawn] s s.drawEvent.2

/-- 40_cycle_loop.md R101 (D15, D18): a fetch at 4095 or above faults, with no word, and reports the lowest address
outside memory. -/
def Obligations.FetchOutsideMemoryFaults : Prop :=
  ∀ s : State, s.run = .running → s.drawEvent.1 = .core → 4095 ≤ s.pc.toNat →
    ∃ t, step s = .next t ∧
      t.run = .faulted .addressOutOfRange s.pc none (some (if s.pc.toNat = 4095 then 4096 else s.pc.toNat)) ∧
      ChangesOnlyIn [.run, .events, .drawn] s t

/-- 40_cycle_loop.md R106: an invalid word appends its record and is otherwise a no-op. -/
def Obligations.InvalidWordIsDiagnosedNoOp : Prop :=
  ∀ (s : State) (w : Word) (e : InvalidWord), s.run = .running → s.drawEvent.1 = .core → s.fetch = .ok w →
    decode s.cfg.haltOnZero w = .error e →
    ∃ t, step s = .next t ∧ t.diag = s.diag ++ [.invalidInstruction s.pc w] ∧ AdvancesBy 2 s t ∧
      ChangesOnlyIn [.diag, .pc, .run, .events, .drawn] s t

/-- 40_cycle_loop.md R112 (D40): an ended run has no step. A live one always has one while SP is legal: no
instruction is refused and no fault of the spec stops the model. -/
def Obligations.LiveStatesStepAndEndedOnesDoNot : Prop :=
  ∀ s : State,
    (∀ r, s.run = .halted r → step s = .fault .runEnded) ∧
    (∀ f p w a, s.run = .faulted f p w a → step s = .fault .runFaulted) ∧
    (s.live → s.sp.toNat ≤ 16 → ∃ t, step s = .next t)

/-- 40_cycle_loop.md R109: the transitions of `run`, from every state. `RunStep` has two more than the table, both
from `WaitingForKey` (log 16): the SoundPort failure of a `TickST` during the wait, which 60_exceptions.md R240, R241
and R244 give, and the overflow of a resume's `Advance(2)` (44_random_timers_input.md R188, R104), only where PC is
above 0xFFFD, which `Inv` rules out. -/
def Obligations.RunChangesByTheTable : Prop :=
  ∀ s t : State, step s = .next t → t.run = s.run ∨ RunStep s t.run

/-- 60_exceptions.md R222 (D17): a fault of codes 2 to 6 leaves everything but `run` and the host's answers as it
was, and records PC and the instruction's word. -/
def Obligations.PreciseFaultsChangeOnlyRun : Prop :=
  ∀ (i : Instr) (s t : State) (f : FaultKind) (p : Word) (w : Option Word) (a : Option Nat),
    s.run = .running → exec i s = .next t → t.run = .faulted f p w a →
    f ≠ .displayPortFailure → f ≠ .soundPortFailure →
    p = s.pc ∧ w = some (encode i) ∧ ChangesOnlyIn [.run, .portOks, .drawn] s t

/-- 10_state.md R29, 40_cycle_loop.md R103, R104 (D8, D41; log 11): every instruction that does not set PC itself
advances by 2, or by 4 when it skips, and past 0xFFFF that advance halts the loop with PC unchanged; otherwise it is
HALT, FX0A or one that faulted, and PC stays. RET's advance starts from the popped address and halts the same way. -/
def Obligations.PcNeverWraps : Prop :=
  ∀ (i : Instr) (s t : State), s.run = .running → exec i s = .next t →
    ((∀ nnn, i ≠ .jp nnn) → (∀ nnn, i ≠ .jpV0 nnn) → (∀ nnn, i ≠ .call nnn) → i ≠ .ret →
      AdvancedOrHalted 2 s.pc t ∨ (mayAdvanceBy4 i = true ∧ AdvancedOrHalted 4 s.pc t) ∨
        (t.pc = s.pc ∧
          ((i = .halt ∧ t.run = .halted .haltSentinel) ∨ (∃ x, i = .ldVxK x ∧ t.run = .waitingForKey x) ∨
            (mayFault i = true ∧ ∃ f w a, t.run = .faulted f s.pc w a)))) ∧
    (i = .ret →
      (s.sp = 0 ∧ t.pc = s.pc ∧ ∃ w a, t.run = .faulted .stackUnderflow s.pc w a) ∨
        ∃ k : Fin 16, k.val + 1 = s.sp.toNat ∧ AdvancedOrHalted 2 s.stack[k] t)

/-- 10_state.md R38, R39: no step changes the configuration; the diagnostic output only grows, and only by the record
of an invalid word at PC (40_cycle_loop.md R106). -/
def Obligations.ConfigFixedDiagnosticsGrow : Prop :=
  ∀ s t : State, step s = .next t →
    t.cfg = s.cfg ∧
    (t.diag = s.diag ∨
      ∃ w e, s.run = .running ∧ s.fetch = .ok w ∧ decode s.cfg.haltOnZero w = .error e ∧
        t.diag = s.diag ++ [.invalidInstruction s.pc w])

/-- 10_state.md R30, R36; 20_memory.md R56: only CALL and RET move SP or the stack, only CLS and DRW change the
screen, only FX33 and FX55 change memory, only FX18 changes ST, only FX15 changes DT. -/
def Obligations.OnlyTheirInstructionsWrite : Prop :=
  ∀ (i : Instr) (s t : State), exec i s = .next t →
    ((∀ nnn, i ≠ .call nnn) → i ≠ .ret → t.sp = s.sp ∧ t.stack = s.stack) ∧
    (i ≠ .cls → (∀ x y n, i ≠ .drw x y n) → t.fb = s.fb ∧ t.shown = s.shown) ∧
    ((∀ x, i ≠ .ldB x) → (∀ x, i ≠ .saveReg x) → ∀ a, t.readByte a = s.readByte a) ∧
    ((∀ x, i ≠ .ldSt x) → t.st = s.st ∧ t.sound = s.sound) ∧
    ((∀ x, i ≠ .ldDt x) → t.dt = s.dt)

/-- 10_state.md R24: an instruction that is none of the flag writers, whose destination is not VF and which is not a
LOADREG of all 16 registers, leaves VF as it was. -/
def Obligations.OtherInstructionsKeepVf : Prop :=
  ∀ (i : Instr) (s t : State), exec i s = .next t →
    (match i with
      | .addImm x _ => x ≠ 15 ∧ s.cfg.addImmSetsVf = false
      | .addI _ => s.cfg.addIVf = .unchanged
      | .addReg _ _ | .sub _ _ | .shr _ _ | .subn _ _ | .shl _ _ | .drw _ _ _ => False
      | .ldImm x _ | .ldReg x _ | .or x _ | .and x _ | .xor x _ | .rnd x _ | .ldVxDt x | .loadReg x => x ≠ 15
      | _ => True) →
    t.getV 15 = s.getV 15

/-! ### System and control flow -/

/-- 40_cycle_loop.md R105 (D19): HALT halts with PC at its address; with `HALT_ON_ZERO` false, `0000` is an invalid
word and execution goes on (log 15). -/
def Obligations.HaltStopsAtItsAddress : Prop :=
  ∀ s : State,
    decode true 0x0000 = .ok .halt ∧ decode false 0x0000 = .error .group0 ∧
    (s.cfg.haltOnZero = true →
      ∃ t, exec .halt s = .next t ∧ t.run = .halted .haltSentinel ∧ ChangesOnlyIn [.run] s t) ∧
    (s.cfg.haltOnZero = false →
      ∃ t, exec .halt s = .next t ∧ t.diag = s.diag ++ [.invalidInstruction s.pc 0x0000] ∧ AdvancesBy 2 s t ∧
        ChangesOnlyIn [.diag, .pc, .run] s t)

/-- 41_control_flow.md R122. -/
def Obligations.JumpSetsPc : Prop :=
  ∀ (nnn : Addr12) (s : State),
    DecodesTo (0x1#4 ++ nnn) (.jp nnn) ∧
    ∃ t, exec (.jp nnn) s = .next t ∧ t.pc.toNat = nnn.toNat ∧ ChangesOnlyIn [.pc] s t

/-- 41_control_flow.md R123 (D10), under both values of `JUMP_OFFSET_REG`: no wrap and no mask. -/
def Obligations.JumpOffsetAddsRegister : Prop :=
  ∀ (x : Reg) (nn : Byte) (s : State),
    DecodesTo (0xB#4 ++ x ++ nn) (.jpV0 (x ++ nn)) ∧
    ∃ t, exec (.jpV0 (x ++ nn)) s = .next t ∧
      t.pc.toNat = 256 * x.toNat + nn.toNat +
        (match s.cfg.jumpOffsetReg with | .v0 => (s.getV 0).toNat | .vx => (s.getV x).toNat) ∧
      ChangesOnlyIn [.pc] s t

/-- 41_control_flow.md R124 (D7), R120 (D6): with a free slot, CALL pushes its own address and jumps. -/
def Obligations.CallPushesItsAddress : Prop :=
  ∀ (nnn : Addr12) (s : State),
    DecodesTo (0x2#4 ++ nnn) (.call nnn) ∧
    ∀ h : s.sp.toNat < 16,
      ∃ t, exec (.call nnn) s = .next t ∧ t.pc.toNat = nnn.toNat ∧ t.sp.toNat = s.sp.toNat + 1 ∧
        t.stack[s.sp.toNat] = s.pc ∧ ChangesOnlyIn [.pc, .sp, .slot ⟨s.sp.toNat, h⟩] s t

/-- 41_control_flow.md R125 (D7), R121 (D6), 40_cycle_loop.md R104 (D41): RET takes the last used slot and advances by
2 from it, or halts there past 0xFFFF; the slots keep their values. -/
def Obligations.RetResumesAfterTheCall : Prop :=
  ∀ s : State,
    DecodesTo 0x00EE .ret ∧
    ∀ h : 0 < s.sp.toNat ∧ s.sp.toNat ≤ 16,
      ∃ t, exec .ret s = .next t ∧ t.sp.toNat = s.sp.toNat - 1 ∧
        ((s.stack[s.sp.toNat - 1]).toNat + 2 ≤ 0xFFFF →
          t.pc.toNat = (s.stack[s.sp.toNat - 1]).toNat + 2 ∧ t.run = s.run) ∧
        (0xFFFF < (s.stack[s.sp.toNat - 1]).toNat + 2 →
          t.pc = s.stack[s.sp.toNat - 1] ∧ t.run = .halted .pcOverflow) ∧
        ChangesOnlyIn [.pc, .run, .sp] s t

/-- 41_control_flow.md R120, R121 (D6, D37): CALL with all 16 slots full raises StackOverflow, RET on an empty stack
StackUnderflow; each changes nothing else. -/
def Obligations.StackFaultsOnFullAndEmpty : Prop :=
  (∀ (nnn : Addr12) (s : State), s.sp = 16 →
    ∃ t, exec (.call nnn) s = .next t ∧
      EntersFault .stackOverflow (some (0x2#4 ++ nnn)) (some s.pc.toNat) s t) ∧
  (∀ s : State, s.sp = 0 →
    ∃ t, exec .ret s = .next t ∧ EntersFault .stackUnderflow (some 0x00EE) (some s.pc.toNat) s t)

/-- 41_control_flow.md R130: a CALL, then code that leaves SP and the slot as it found them, then a RET, resumes after
the CALL with SP as before. -/
def Obligations.CallThenReturnResumes : Prop :=
  ∀ (nnn : Addr12) (s t u : State) (h : s.sp.toNat < 16), s.pc.toNat + 2 ≤ 0xFFFF →
    exec (.call nnn) s = .next t → u.sp = t.sp → u.stack[s.sp.toNat] = t.stack[s.sp.toNat] →
    ∃ w, exec .ret u = .next w ∧ w.pc.toNat = s.pc.toNat + 2 ∧ w.sp = s.sp ∧ w.run = u.run

/-- 41_control_flow.md R126, R127, with the advance by 4 of a taken skip (40_cycle_loop.md R103; D8, log 11). -/
def Obligations.SkipsOnImmediate : Prop :=
  ∀ (x : Reg) (nn : Byte) (s : State),
    DecodesTo (0x3#4 ++ x ++ nn) (.seImm x nn) ∧ DecodesTo (0x4#4 ++ x ++ nn) (.sneImm x nn) ∧
    (∃ t, exec (.seImm x nn) s = .next t ∧ SkipsWhen (s.getV x = nn) s t ∧ ChangesOnlyIn [.pc, .run] s t) ∧
    (∃ t, exec (.sneImm x nn) s = .next t ∧ SkipsWhen (s.getV x ≠ nn) s t ∧ ChangesOnlyIn [.pc, .run] s t)

/-- 41_control_flow.md R128, R129, with the advance by 4 of a taken skip (40_cycle_loop.md R103; D8, log 11); the low
nibble of the word must be 0 (30_encoding.md R76; D20, log 11). -/
def Obligations.SkipsOnRegister : Prop :=
  ∀ (x y : Reg) (s : State),
    DecodesTo (0x5#4 ++ x ++ y ++ 0x0#4) (.seReg x y) ∧ DecodesTo (0x9#4 ++ x ++ y ++ 0x0#4) (.sneReg x y) ∧
    (∀ (n : Nibble) (h : Bool), n ≠ 0 →
      decode h (0x5#4 ++ x ++ y ++ n) = .error .group5 ∧ decode h (0x9#4 ++ x ++ y ++ n) = .error .group9) ∧
    (∃ t, exec (.seReg x y) s = .next t ∧ SkipsWhen (s.getV x = s.getV y) s t ∧ ChangesOnlyIn [.pc, .run] s t) ∧
    (∃ t, exec (.sneReg x y) s = .next t ∧ SkipsWhen (s.getV x ≠ s.getV y) s t ∧ ChangesOnlyIn [.pc, .run] s t)

/-! ### Arithmetic and logic -/

/-- 42_arithmetic_logic.md R140 (D12), under both values of `ADD_IMM_SETS_VF`; with `x = 15` VF ends as the flag, by the
spec's choice D14 (10_state.md R22; log 11). -/
def Obligations.AddImmediate : Prop :=
  ∀ (x : Reg) (nn : Byte) (s : State),
    DecodesTo (0x7#4 ++ x ++ nn) (.addImm x nn) ∧
    ∃ t, exec (.addImm x nn) s = .next t ∧
      (s.cfg.addImmSetsVf = true →
        t.getV 15 = (if 255 < (s.getV x).toNat + nn.toNat then 1 else 0) ∧
        (x ≠ 15 → (t.getV x).toNat = ((s.getV x).toNat + nn.toNat) % 256) ∧
        ChangesOnlyIn [.reg x, .reg 15, .pc, .run] s t) ∧
      (s.cfg.addImmSetsVf = false →
        (t.getV x).toNat = ((s.getV x).toNat + nn.toNat) % 256 ∧ ChangesOnlyIn [.reg x, .pc, .run] s t) ∧
      AdvancesBy 2 s t

/-- 42_arithmetic_logic.md R141, R142, R143: VF untouched, unless it is the destination. -/
def Obligations.LogicOperations : Prop :=
  ∀ (x y : Reg) (s : State),
    DecodesTo (0x8#4 ++ x ++ y ++ 0x1#4) (.or x y) ∧ DecodesTo (0x8#4 ++ x ++ y ++ 0x2#4) (.and x y) ∧
    DecodesTo (0x8#4 ++ x ++ y ++ 0x3#4) (.xor x y) ∧
    (∃ t, exec (.or x y) s = .next t ∧ t.getV x = s.getV x ||| s.getV y ∧ AdvancesBy 2 s t ∧
      ChangesOnlyIn [.reg x, .pc, .run] s t) ∧
    (∃ t, exec (.and x y) s = .next t ∧ t.getV x = s.getV x &&& s.getV y ∧ AdvancesBy 2 s t ∧
      ChangesOnlyIn [.reg x, .pc, .run] s t) ∧
    (∃ t, exec (.xor x y) s = .next t ∧ t.getV x = s.getV x ^^^ s.getV y ∧ AdvancesBy 2 s t ∧
      ChangesOnlyIn [.reg x, .pc, .run] s t)

/-- 42_arithmetic_logic.md R144: with `x = 15` VF ends as the carry, and with `y = 15` the old VF is the addend, by the
spec's choices D14 and D39 (10_state.md R22, R23; log 11). -/
def Obligations.AddRegisters : Prop :=
  ∀ (x y : Reg) (s : State),
    DecodesTo (0x8#4 ++ x ++ y ++ 0x4#4) (.addReg x y) ∧
    ∃ t, exec (.addReg x y) s = .next t ∧
      t.getV 15 = (if 255 < (s.getV x).toNat + (s.getV y).toNat then 1 else 0) ∧
      (x ≠ 15 → (t.getV x).toNat = ((s.getV x).toNat + (s.getV y).toNat) % 256) ∧
      AdvancesBy 2 s t ∧ ChangesOnlyIn [.reg x, .reg 15, .pc, .run] s t

/-- 42_arithmetic_logic.md R145, R147: VF is 1 when there is no borrow, equal operands included; with `x = 15` VF ends as
the flag, and operands are read first, by the spec's choices D14 and D39 (10_state.md R22, R23; log 11). -/
def Obligations.Subtractions : Prop :=
  ∀ (x y : Reg) (s : State),
    DecodesTo (0x8#4 ++ x ++ y ++ 0x5#4) (.sub x y) ∧ DecodesTo (0x8#4 ++ x ++ y ++ 0x7#4) (.subn x y) ∧
    (∃ t, exec (.sub x y) s = .next t ∧ t.getV 15 = (if (s.getV y).toNat ≤ (s.getV x).toNat then 1 else 0) ∧
      (x ≠ 15 → (t.getV x).toNat = ((s.getV x).toNat + 256 - (s.getV y).toNat) % 256) ∧
      AdvancesBy 2 s t ∧ ChangesOnlyIn [.reg x, .reg 15, .pc, .run] s t) ∧
    (∃ t, exec (.subn x y) s = .next t ∧ t.getV 15 = (if (s.getV x).toNat ≤ (s.getV y).toNat then 1 else 0) ∧
      (x ≠ 15 → (t.getV x).toNat = ((s.getV y).toNat + 256 - (s.getV x).toNat) % 256) ∧
      AdvancesBy 2 s t ∧ ChangesOnlyIn [.reg x, .reg 15, .pc, .run] s t)

/-- 42_arithmetic_logic.md R146, R148 (D9), under both values of `SHIFT_SOURCE`: VF gets the bit shifted out,
last, when `x = 15` too (D14, D39; log 11). -/
def Obligations.Shifts : Prop :=
  ∀ (x y : Reg) (s : State) (src : Nat),
    src = (match s.cfg.shiftSource with | .vx => (s.getV x).toNat | .vy => (s.getV y).toNat) →
    DecodesTo (0x8#4 ++ x ++ y ++ 0x6#4) (.shr x y) ∧ DecodesTo (0x8#4 ++ x ++ y ++ 0xE#4) (.shl x y) ∧
    (∃ t, exec (.shr x y) s = .next t ∧ (t.getV 15).toNat = src % 2 ∧ (x ≠ 15 → (t.getV x).toNat = src / 2) ∧
      AdvancesBy 2 s t ∧ ChangesOnlyIn [.reg x, .reg 15, .pc, .run] s t) ∧
    (∃ t, exec (.shl x y) s = .next t ∧ (t.getV 15).toNat = src / 128 ∧
      (x ≠ 15 → (t.getV x).toNat = src * 2 % 256) ∧
      AdvancesBy 2 s t ∧ ChangesOnlyIn [.reg x, .reg 15, .pc, .run] s t)

/-- 42_arithmetic_logic.md R149 (D13), under the three values of `ADD_I_VF`; with `x = 15` the old VF is the addend
(D39; log 11). -/
def Obligations.AddToIndex : Prop :=
  ∀ (x : Reg) (s : State),
    DecodesTo (0xF#4 ++ x ++ 0x1E#8) (.addI x) ∧
    ∃ t, exec (.addI x) s = .next t ∧ t.i.toNat = (s.i.toNat + (s.getV x).toNat) % 65536 ∧
      (match s.cfg.addIVf with
        | .carry16 => t.getV 15 = (if 0xFFFF < s.i.toNat + (s.getV x).toNat then 1 else 0)
        | .overflow12 => t.getV 15 = (if 0x0FFF < s.i.toNat + (s.getV x).toNat then 1 else 0)
        | .unchanged => t.getV 15 = s.getV 15) ∧
      AdvancesBy 2 s t ∧ ChangesOnlyIn [.i, .reg 15, .pc, .run] s t

/-! ### Transfer -/

/-- 43_transfer.md R160. -/
def Obligations.LoadsImmediate : Prop :=
  ∀ (x : Reg) (nn : Byte) (s : State),
    DecodesTo (0x6#4 ++ x ++ nn) (.ldImm x nn) ∧
    ∃ t, exec (.ldImm x nn) s = .next t ∧ t.getV x = nn ∧ AdvancesBy 2 s t ∧ ChangesOnlyIn [.reg x, .pc, .run] s t

/-- 43_transfer.md R161. -/
def Obligations.CopiesRegister : Prop :=
  ∀ (x y : Reg) (s : State),
    DecodesTo (0x8#4 ++ x ++ y ++ 0x0#4) (.ldReg x y) ∧
    ∃ t, exec (.ldReg x y) s = .next t ∧ t.getV x = s.getV y ∧ AdvancesBy 2 s t ∧
      ChangesOnlyIn [.reg x, .pc, .run] s t

/-- 43_transfer.md R162. -/
def Obligations.LoadsIndex : Prop :=
  ∀ (nnn : Addr12) (s : State),
    DecodesTo (0xA#4 ++ nnn) (.ldI nnn) ∧
    ∃ t, exec (.ldI nnn) s = .next t ∧ t.i.toNat = nnn.toNat ∧ AdvancesBy 2 s t ∧
      ChangesOnlyIn [.i, .pc, .run] s t

/-- 43_transfer.md R163 (D3, D4): only the low nibble of the register is used. -/
def Obligations.LoadsDigitAddress : Prop :=
  ∀ (x : Reg) (s : State),
    DecodesTo (0xF#4 ++ x ++ 0x29#8) (.ldF x) ∧
    ∃ t, exec (.ldF x) s = .next t ∧ t.i.toNat = s.cfg.fontBase.val + 5 * ((s.getV x).toNat % 16) ∧
      AdvancesBy 2 s t ∧ ChangesOnlyIn [.i, .pc, .run] s t

/-- 43_transfer.md R164: the three digits, or one of its two faults with no byte written. The faults follow the spec's
choices D15 (addresses are not reduced), D16 (the reserved region) and D36, D45 (every check before any access), log
11. Which address a fault reports is another statement's. -/
def Obligations.StoresBcd : Prop :=
  ∀ (x : Reg) (s : State),
    DecodesTo (0xF#4 ++ x ++ 0x33#8) (.ldB x) ∧
    (s.storeAllowed 3 →
      ∃ t, exec (.ldB x) s = .next t ∧ (t.readByte s.i.toNat).toNat = (s.getV x).toNat / 100 ∧
        (t.readByte (s.i.toNat + 1)).toNat = (s.getV x).toNat / 10 % 10 ∧
        (t.readByte (s.i.toNat + 2)).toNat = (s.getV x).toNat % 10 ∧
        AdvancesBy 2 s t ∧ StoresOnly [.pc, .run] s.i.toNat 3 s t) ∧
    (4096 ≤ s.i.toNat + 2 →
      ∃ t a, exec (.ldB x) s = .next t ∧ EntersFault .addressOutOfRange (some (0xF#4 ++ x ++ 0x33#8)) (some a) s t) ∧
    (s.i.toNat < 512 → s.cfg.lowMemoryWrite = .fault →
      ∃ t a, exec (.ldB x) s = .next t ∧
        EntersFault .reservedMemoryWrite (some (0xF#4 ++ x ++ 0x33#8)) (some a) s t)

/-- 43_transfer.md R165, R167 (D11), under the three values of `RANGE_I_MODE`, where the range may be stored to (D15,
D16; log 11). -/
def Obligations.SavesRegisters : Prop :=
  ∀ (x : Reg) (s : State),
    DecodesTo (0xF#4 ++ x ++ 0x55#8) (.saveReg x) ∧
    (s.storeAllowed (x.toNat + 1) →
      ∃ t, exec (.saveReg x) s = .next t ∧
        (∀ r : Reg, r.toNat ≤ x.toNat → t.readByte (s.i.toNat + r.toNat) = s.getV r) ∧ RangeI x s t ∧
        AdvancesBy 2 s t ∧ StoresOnly [.i, .pc, .run] s.i.toNat (x.toNat + 1) s t)

/-- 43_transfer.md R166, R167 (D11): reads are never reserved; the range is in memory (D15; log 11). -/
def Obligations.LoadsRegisters : Prop :=
  ∀ (x : Reg) (s : State),
    DecodesTo (0xF#4 ++ x ++ 0x65#8) (.loadReg x) ∧
    (s.i.toNat + x.toNat < 4096 →
      ∃ t, exec (.loadReg x) s = .next t ∧
        (∀ r : Reg, r.toNat ≤ x.toNat → t.getV r = s.readByte (s.i.toNat + r.toNat)) ∧ RangeI x s t ∧
        AdvancesBy 2 s t ∧
        ChangesOnly (fun p => p ∈ [.i, .pc, .run] ∨ ∃ r : Reg, r.toNat ≤ x.toNat ∧ p = .reg r) s t)

/-- 43_transfer.md R165, R166: a SAVEREG and, wherever memory and I are still as it left and found them, a LOADREG
of the same range gives the registers back. -/
def Obligations.SaveThenLoadRestores : Prop :=
  ∀ (x : Reg) (s t u : State), s.storeAllowed (x.toNat + 1) → exec (.saveReg x) s = .next t →
    u.i = s.i → (∀ a, u.readByte a = t.readByte a) →
    ∃ w, exec (.loadReg x) u = .next w ∧ ∀ r : Reg, r.toNat ≤ x.toNat → w.getV r = s.getV r

/-- 20_memory.md R57, R59, R60 (D15, D16, D36, D45): every address is checked before any access, the lowest address
outside memory is reported, and the reserved region is checked second; a fault changes only `run`. -/
def Obligations.RangeFaultsReportTheLowestAddress : Prop :=
  ∀ (x y : Reg) (n : Nibble) (s : State),
    (4096 < s.i.toNat + 3 → ∃ t, exec (.ldB x) s = .next t ∧
      EntersFault .addressOutOfRange (some (encode (.ldB x))) (some (max s.i.toNat 4096)) s t) ∧
    (4096 < s.i.toNat + (x.toNat + 1) →
      (∃ t, exec (.saveReg x) s = .next t ∧
        EntersFault .addressOutOfRange (some (encode (.saveReg x))) (some (max s.i.toNat 4096)) s t) ∧
      (∃ t, exec (.loadReg x) s = .next t ∧
        EntersFault .addressOutOfRange (some (encode (.loadReg x))) (some (max s.i.toNat 4096)) s t)) ∧
    (0 < n.toNat → 4096 < s.i.toNat + n.toNat → ∃ t, exec (.drw x y n) s = .next t ∧
      EntersFault .addressOutOfRange (some (encode (.drw x y n))) (some (max s.i.toNat 4096)) s t) ∧
    (s.i.toNat < 512 → s.cfg.lowMemoryWrite = .fault →
      (∃ t, exec (.ldB x) s = .next t ∧
        EntersFault .reservedMemoryWrite (some (encode (.ldB x))) (some s.i.toNat) s t) ∧
      (∃ t, exec (.saveReg x) s = .next t ∧
        EntersFault .reservedMemoryWrite (some (encode (.saveReg x))) (some s.i.toNat) s t))

/-! ### Random, timers, input -/

/-- 44_random_timers_input.md R180 (D26): the pending byte, or the free one, masked; no bit outside the mask whatever
the draw (log 2). -/
def Obligations.RandomIsMasked : Prop :=
  ∀ (x : Reg) (nn : Byte) (s : State),
    DecodesTo (0xC#4 ++ x ++ nn) (.rnd x nn) ∧
    ∃ t, exec (.rnd x nn) s = .next t ∧
      (∀ r rs, s.host.randoms = r :: rs → t.getV x = r &&& nn ∧ t.host.randoms = rs ∧ t.host.drawn = s.host.drawn) ∧
      (s.host.randoms = [] → t.getV x = Config.freeByte s.host.drawn &&& nn) ∧
      t.getV x &&& ~~~nn = 0 ∧ AdvancesBy 2 s t ∧ ChangesOnlyIn [.reg x, .pc, .run, .randoms, .drawn] s t

/-- 44_random_timers_input.md R181, R182. -/
def Obligations.DelayTimerMoves : Prop :=
  ∀ (x : Reg) (s : State),
    DecodesTo (0xF#4 ++ x ++ 0x07#8) (.ldVxDt x) ∧ DecodesTo (0xF#4 ++ x ++ 0x15#8) (.ldDt x) ∧
    (∃ t, exec (.ldVxDt x) s = .next t ∧ t.getV x = s.dt ∧ AdvancesBy 2 s t ∧
      ChangesOnlyIn [.reg x, .pc, .run] s t) ∧
    (∃ t, exec (.ldDt x) s = .next t ∧ t.dt = s.getV x ∧ AdvancesBy 2 s t ∧
      ChangesOnlyIn [.dt, .pc, .run] s t)

/-- 44_random_timers_input.md R183, 10_state.md R41, 60_exceptions.md R248 (D17, D43): a SoundPort call only where
`sound_on` changes; ST keeps its new value and PC stays when the call fails. -/
def Obligations.SoundTimerWrite : Prop :=
  ∀ (x : Reg) (s : State),
    DecodesTo (0xF#4 ++ x ++ 0x18#8) (.ldSt x) ∧
    ((s.st = 0 ↔ s.getV x = 0) →
      ∃ t, exec (.ldSt x) s = .next t ∧ t.st = s.getV x ∧ AdvancesBy 2 s t ∧ ChangesOnlyIn [.st, .pc, .run] s t) ∧
    (¬ (s.st = 0 ↔ s.getV x = 0) →
      ∃ t, exec (.ldSt x) s = .next t ∧ t.st = s.getV x ∧
        t.sound = s.sound ++ [if s.st = 0 then .start Config.soundFreqHz else .stop] ∧
        (s.drawPortOk.1 = true →
          AdvancesBy 2 s t ∧ ChangesOnlyIn [.st, .sound, .portOks, .drawn, .pc, .run] s t) ∧
        (s.drawPortOk.1 = false →
          t.run = .faulted .soundPortFailure s.pc (some (0xF#4 ++ x ++ 0x18#8)) none ∧
          ChangesOnlyIn [.st, .sound, .portOks, .drawn, .run] s t))

/-- 44_random_timers_input.md R185, R186 (D44): with a key index up to 15 and the port answering, one sample of that
key decides the skip, whose advance is 4 (D8; log 11). -/
def Obligations.KeySkips : Prop :=
  ∀ (x : Reg) (s : State),
    DecodesTo (0xE#4 ++ x ++ 0x9E#8) (.skp x) ∧ DecodesTo (0xE#4 ++ x ++ 0xA1#8) (.sknp x) ∧
    ((s.getV x).toNat ≤ 15 → s.drawPortOk.1 = true →
      (∃ t, exec (.skp x) s = .next t ∧
        SkipsWhen (s.drawPortOk.2.drawKeys.1.getLsbD (s.getV x).toNat = true) s t ∧
        ChangesOnlyIn [.pc, .run, .portOks, .keys, .drawn] s t) ∧
      (∃ t, exec (.sknp x) s = .next t ∧
        SkipsWhen (s.drawPortOk.2.drawKeys.1.getLsbD (s.getV x).toNat = false) s t ∧
        ChangesOnlyIn [.pc, .run, .portOks, .keys, .drawn] s t))

/-- 44_random_timers_input.md R184 (D21), 60_exceptions.md R247: a key index above 15 faults with no port call; a
failed port call faults; both are precise. -/
def Obligations.KeySkipFaults : Prop :=
  ∀ (x : Reg) (s : State),
    (15 < (s.getV x).toNat →
      (∃ t, exec (.skp x) s = .next t ∧
        EntersFault .inputPortFailure (some (encode (.skp x))) (some (s.getV x).toNat) s t) ∧
      (∃ t, exec (.sknp x) s = .next t ∧
        EntersFault .inputPortFailure (some (encode (.sknp x))) (some (s.getV x).toNat) s t)) ∧
    ((s.getV x).toNat ≤ 15 → s.drawPortOk.1 = false →
      (∃ t, exec (.skp x) s = .next t ∧
        t.run = .faulted .inputPortFailure s.pc (some (encode (.skp x))) (some (s.getV x).toNat) ∧
        ChangesOnlyIn [.run, .portOks, .drawn] s t) ∧
      (∃ t, exec (.sknp x) s = .next t ∧
        t.run = .faulted .inputPortFailure s.pc (some (encode (.sknp x))) (some (s.getV x).toNat) ∧
        ChangesOnlyIn [.run, .portOks, .drawn] s t))

/-- 44_random_timers_input.md R187: the wait starts, PC stays at the FX0A. -/
def Obligations.KeyWaitStarts : Prop :=
  ∀ (x : Reg) (s : State),
    DecodesTo (0xF#4 ++ x ++ 0x0A#8) (.ldVxK x) ∧
    ∃ t, exec (.ldVxK x) s = .next t ∧ t.run = .waitingForKey x ∧ ChangesOnlyIn [.run] s t

/-- 44_random_timers_input.md R188 (D25): a key-down event completes the wait, with the whole of its `Advance(2)`
(40_cycle_loop.md R104; D41). -/
def Obligations.KeyDownCompletesTheWait : Prop :=
  ∀ (s : State) (x : Reg) (k : Nibble), s.run = .waitingForKey x → s.drawEvent.1 = .keyDown k →
    ∃ t, step s = .next t ∧ (t.getV x).toNat = k.toNat ∧
      AdvancedOrHalted 2 s.pc t ∧ ChangesOnlyIn [.reg x, .pc, .run, .events, .drawn] s t

/-- 40_cycle_loop.md R110 (D24), R113, 44_random_timers_input.md R188 (D25), R189: cancellation ends a live run at any
boundary, a failed poll faults the wait with no key known, the Core has no iteration during the wait, and with no wait
a key-down does not count and there is no poll to fail (log 4): each then changes only the model's own event fields. -/
def Obligations.CancelAndPollFailure : Prop :=
  ∀ s : State,
    (s.live → s.drawEvent.1 = .cancel →
      ∃ t, step s = .next t ∧ t.run = .halted .cancelled ∧ ChangesOnlyIn [.run, .events, .drawn] s t) ∧
    (∀ x, s.run = .waitingForKey x → s.drawEvent.1 = .pollFail →
      ∃ t, step s = .next t ∧ t.run = .faulted .inputPortFailure s.pc (some (encode (.ldVxK x))) none ∧
        ChangesOnlyIn [.run, .events, .drawn] s t) ∧
    (∀ x, s.run = .waitingForKey x → s.drawEvent.1 = .core →
      ∃ t, step s = .next t ∧ ChangesOnlyIn [.events, .drawn] s t) ∧
    (s.run = .running → (s.drawEvent.1 = .pollFail ∨ ∃ k, s.drawEvent.1 = .keyDown k) →
      ∃ t, step s = .next t ∧ ChangesOnlyIn [.events, .drawn] s t)

/-! ### Display -/

/-- 45_display.md R200: the coordinates wrap, the pixel there flips and no other does, and the prior value is
returned. -/
def Obligations.TogglesWrappedPixel : Prop :=
  ∀ (f : Framebuffer) (x y : Nat),
    (togglePixel f x y).2 = pixel f (x % 64) (y % 32) ∧
    ∀ px py, px < 64 → py < 32 →
      pixel (togglePixel f x y).1 px py =
        (if px = x % 64 ∧ py = y % 32 then !pixel f px py else pixel f px py)

/-- 45_display.md R202, R203 (D28), 60_exceptions.md R247: the screen clears; with the push accepted PC advances, with
the push failed the screen is clear and PC unchanged. -/
def Obligations.ClearsScreen : Prop :=
  ∀ s : State,
    DecodesTo 0x00E0 .cls ∧
    ∃ t, exec .cls s = .next t ∧ (∀ x y, x < 64 → y < 32 → pixel t.fb x y = false) ∧ t.shown = some t.fb ∧
      (s.drawPortOk.1 = true →
        AdvancesBy 2 s t ∧ ChangesOnlyIn [.fb, .shown, .portOks, .drawn, .pc, .run] s t) ∧
      (s.drawPortOk.1 = false →
        t.run = .faulted .displayPortFailure s.pc (some 0x00E0) none ∧
        ChangesOnlyIn [.fb, .shown, .portOks, .drawn, .run] s t)

/-- 45_display.md R200, R201, R204, R207 (D30, D36): where the sprite's bytes are in memory and the pushes succeed,
exactly the covered pixels flip, with wrap, and VF says whether one of them was on. -/
def Obligations.DrawsSpriteByXor : Prop :=
  ∀ (x y : Reg) (n : Nibble) (s : State),
    DecodesTo (0xD#4 ++ x ++ y ++ n) (.drw x y n) ∧
    ((n = 0 ∨ s.i.toNat + n.toNat ≤ 4096) → s.nextPortsOk n.toNat →
      ∃ t, exec (.drw x y n) s = .next t ∧
        DrawsSprite n.toNat (s.getV x).toNat (s.getV y).toNat s t ∧
        (SpriteCollides n.toNat (s.getV x).toNat (s.getV y).toNat s → t.getV 15 = 1) ∧
        (¬ SpriteCollides n.toNat (s.getV x).toNat (s.getV y).toNat s → t.getV 15 = 0) ∧
        t.shown = (if n = 0 then s.shown else some t.fb) ∧
        AdvancesBy 2 s t ∧ ChangesOnlyIn [.fb, .shown, .reg 15, .portOks, .drawn, .pc, .run] s t)

/-- 45_display.md R204, 60_exceptions.md R247 (D17, D28): when the push after row `k` is the first to fail, the rows
up to it stay drawn and VF and PC are not updated. -/
def Obligations.DrawPushFailureKeepsRows : Prop :=
  ∀ (x y : Reg) (n : Nibble) (s : State) (k : Nat), s.i.toNat + n.toNat ≤ 4096 → k < n.toNat →
    s.nextPortsOk k → (s.afterPorts k).drawPortOk.1 = false →
    ∃ t, exec (.drw x y n) s = .next t ∧
      t.run = .faulted .displayPortFailure s.pc (some (0xD#4 ++ x ++ y ++ n)) none ∧
      DrawsSprite (k + 1) (s.getV x).toNat (s.getV y).toNat s t ∧
      ChangesOnlyIn [.fb, .shown, .portOks, .drawn, .run] s t

/-- 45_display.md R206 (with D30 for `n = 0`; log 11): drawing the same sprite at the same place again
restores the screen exactly, and the second draw reports a collision exactly when the first turned a pixel on. -/
def Obligations.DrawingTwiceRestoresTheScreen : Prop :=
  ∀ (x y : Reg) (n : Nibble) (s t u : State), (n = 0 ∨ s.i.toNat + n.toNat ≤ 4096) →
    s.nextPortsOk n.toNat → exec (.drw x y n) s = .next t →
    u.fb = t.fb → u.i = s.i → u.getV x = s.getV x → u.getV y = s.getV y →
    (∀ a, u.readByte a = s.readByte a) → u.nextPortsOk n.toNat →
    ∃ w, exec (.drw x y n) u = .next w ∧ w.fb = s.fb ∧
      (w.getV 15 = 1 ↔
        ∃ px py, px < 64 ∧ py < 32 ∧ pixel s.fb px py = false ∧ pixel t.fb px py = true)

/-! ### The Timer agent -/

/-- 60_exceptions.md R240, R241, R244 (D22, D23, D43): both ticks of a live run, to a floor of 0; the tick that takes
ST to 0 stops the tone, and faults where that call fails. -/
def Obligations.TimersTick : Prop :=
  ∀ s : State, s.live →
    (s.drawEvent.1 = .tickDT →
      ∃ t, step s = .next t ∧ t.dt.toNat = s.dt.toNat - 1 ∧ ChangesOnlyIn [.dt, .events, .drawn] s t) ∧
    (s.drawEvent.1 = .tickST → s.st ≠ 1 →
      ∃ t, step s = .next t ∧ t.st.toNat = s.st.toNat - 1 ∧ ChangesOnlyIn [.st, .events, .drawn] s t) ∧
    (s.drawEvent.1 = .tickST → s.st = 1 →
      ∃ t, step s = .next t ∧ t.st = 0 ∧ t.soundOn = false ∧ t.sound = s.sound ++ [.stop] ∧
        (s.drawEvent.2.drawPortOk.1 = true →
          ChangesOnlyIn [.st, .sound, .events, .portOks, .drawn] s t) ∧
        (s.drawEvent.2.drawPortOk.1 = false →
          t.run = .faulted .soundPortFailure s.pc none none ∧
          ChangesOnlyIn [.st, .sound, .run, .events, .portOks, .drawn] s t))

/-- 70_reset_and_hazards.md R266 (D22; log 11): DT never increases in a step, unless the step runs an FX15. -/
def Obligations.DelayTimerGrowsOnlyByFx15 : Prop :=
  ∀ s t : State, step s = .next t →
    t.dt.toNat ≤ s.dt.toNat ∨
      ∃ x, s.run = .running ∧ s.fetch = .ok (encode (.ldDt x)) ∧ t.dt = s.getV x

/-- 60_exceptions.md R240, R241, R242 (D22, D23, D32; logs 20, 21): in every run, the Timer steps taken count each timer down to its
floor while no instruction writes it, whatever the other steps; and in a fair run each timer reaches 0 from any point
on, unless a program writes it again. -/
def Obligations.TimersDecayInEveryRun : Prop :=
  ∀ r : Nat → State, IsRun r →
    (∀ n, (∀ k, k < n → ¬ (r k).writesDt) → (r n).dt.toNat = (r 0).dt.toNat - countEvent .tickDT r n) ∧
    (∀ n, (∀ k, k < n → ¬ (r k).writesSt) → (r n).st.toNat = (r 0).st.toNat - countEvent .tickST r n) ∧
    (FairRun r → ∀ n,
      (∃ m, n ≤ m ∧ ((r m).dt = 0 ∨ (r m).writesDt)) ∧ (∃ m, n ≤ m ∧ ((r m).st = 0 ∨ (r m).writesSt)))
end

