-- ==== Sys2Proof/Laws/State.lean ====
section
/-! SUPPORT. One lemma per field per update of the state, and per register or byte read per update, so that no later
proof unfolds a record update. -/

namespace Sys2Proof.Machine

variable (s : State)

/-! ### `State.setI` -/

@[simp] theorem State.setI_v (w : Word) : (s.setI w).v = s.v := rfl
@[simp] theorem State.setI_i (w : Word) : (s.setI w).i = w := rfl
@[simp] theorem State.setI_pc (w : Word) : (s.setI w).pc = s.pc := rfl
@[simp] theorem State.setI_sp (w : Word) : (s.setI w).sp = s.sp := rfl
@[simp] theorem State.setI_stack (w : Word) : (s.setI w).stack = s.stack := rfl
@[simp] theorem State.setI_dt (w : Word) : (s.setI w).dt = s.dt := rfl
@[simp] theorem State.setI_st (w : Word) : (s.setI w).st = s.st := rfl
@[simp] theorem State.setI_fb (w : Word) : (s.setI w).fb = s.fb := rfl
@[simp] theorem State.setI_mem (w : Word) : (s.setI w).mem = s.mem := rfl
@[simp] theorem State.setI_run (w : Word) : (s.setI w).run = s.run := rfl
@[simp] theorem State.setI_diag (w : Word) : (s.setI w).diag = s.diag := rfl
@[simp] theorem State.setI_sound (w : Word) : (s.setI w).sound = s.sound := rfl
@[simp] theorem State.setI_shown (w : Word) : (s.setI w).shown = s.shown := rfl
@[simp] theorem State.setI_cfg (w : Word) : (s.setI w).cfg = s.cfg := rfl
@[simp] theorem State.setI_host (w : Word) : (s.setI w).host = s.host := rfl
@[simp] theorem State.getV_setI (w : Word) (y : Reg) : (s.setI w).getV y = s.getV y := rfl
@[simp] theorem State.readByte_setI (w : Word) (n : Nat) : (s.setI w).readByte n = s.readByte n := rfl

/-! ### `State.setPc` -/

@[simp] theorem State.setPc_v (w : Word) : (s.setPc w).v = s.v := rfl
@[simp] theorem State.setPc_i (w : Word) : (s.setPc w).i = s.i := rfl
@[simp] theorem State.setPc_pc (w : Word) : (s.setPc w).pc = w := rfl
@[simp] theorem State.setPc_sp (w : Word) : (s.setPc w).sp = s.sp := rfl
@[simp] theorem State.setPc_stack (w : Word) : (s.setPc w).stack = s.stack := rfl
@[simp] theorem State.setPc_dt (w : Word) : (s.setPc w).dt = s.dt := rfl
@[simp] theorem State.setPc_st (w : Word) : (s.setPc w).st = s.st := rfl
@[simp] theorem State.setPc_fb (w : Word) : (s.setPc w).fb = s.fb := rfl
@[simp] theorem State.setPc_mem (w : Word) : (s.setPc w).mem = s.mem := rfl
@[simp] theorem State.setPc_run (w : Word) : (s.setPc w).run = s.run := rfl
@[simp] theorem State.setPc_diag (w : Word) : (s.setPc w).diag = s.diag := rfl
@[simp] theorem State.setPc_sound (w : Word) : (s.setPc w).sound = s.sound := rfl
@[simp] theorem State.setPc_shown (w : Word) : (s.setPc w).shown = s.shown := rfl
@[simp] theorem State.setPc_cfg (w : Word) : (s.setPc w).cfg = s.cfg := rfl
@[simp] theorem State.setPc_host (w : Word) : (s.setPc w).host = s.host := rfl
@[simp] theorem State.getV_setPc (w : Word) (y : Reg) : (s.setPc w).getV y = s.getV y := rfl
@[simp] theorem State.readByte_setPc (w : Word) (n : Nat) : (s.setPc w).readByte n = s.readByte n := rfl

/-! ### `State.setDt` -/

@[simp] theorem State.setDt_v (b : Byte) : (s.setDt b).v = s.v := rfl
@[simp] theorem State.setDt_i (b : Byte) : (s.setDt b).i = s.i := rfl
@[simp] theorem State.setDt_pc (b : Byte) : (s.setDt b).pc = s.pc := rfl
@[simp] theorem State.setDt_sp (b : Byte) : (s.setDt b).sp = s.sp := rfl
@[simp] theorem State.setDt_stack (b : Byte) : (s.setDt b).stack = s.stack := rfl
@[simp] theorem State.setDt_dt (b : Byte) : (s.setDt b).dt = b := rfl
@[simp] theorem State.setDt_st (b : Byte) : (s.setDt b).st = s.st := rfl
@[simp] theorem State.setDt_fb (b : Byte) : (s.setDt b).fb = s.fb := rfl
@[simp] theorem State.setDt_mem (b : Byte) : (s.setDt b).mem = s.mem := rfl
@[simp] theorem State.setDt_run (b : Byte) : (s.setDt b).run = s.run := rfl
@[simp] theorem State.setDt_diag (b : Byte) : (s.setDt b).diag = s.diag := rfl
@[simp] theorem State.setDt_sound (b : Byte) : (s.setDt b).sound = s.sound := rfl
@[simp] theorem State.setDt_shown (b : Byte) : (s.setDt b).shown = s.shown := rfl
@[simp] theorem State.setDt_cfg (b : Byte) : (s.setDt b).cfg = s.cfg := rfl
@[simp] theorem State.setDt_host (b : Byte) : (s.setDt b).host = s.host := rfl
@[simp] theorem State.getV_setDt (b : Byte) (y : Reg) : (s.setDt b).getV y = s.getV y := rfl
@[simp] theorem State.readByte_setDt (b : Byte) (n : Nat) : (s.setDt b).readByte n = s.readByte n := rfl

/-! ### `State.setSt` -/

@[simp] theorem State.setSt_v (b : Byte) : (s.setSt b).v = s.v := rfl
@[simp] theorem State.setSt_i (b : Byte) : (s.setSt b).i = s.i := rfl
@[simp] theorem State.setSt_pc (b : Byte) : (s.setSt b).pc = s.pc := rfl
@[simp] theorem State.setSt_sp (b : Byte) : (s.setSt b).sp = s.sp := rfl
@[simp] theorem State.setSt_stack (b : Byte) : (s.setSt b).stack = s.stack := rfl
@[simp] theorem State.setSt_dt (b : Byte) : (s.setSt b).dt = s.dt := rfl
@[simp] theorem State.setSt_st (b : Byte) : (s.setSt b).st = b := rfl
@[simp] theorem State.setSt_fb (b : Byte) : (s.setSt b).fb = s.fb := rfl
@[simp] theorem State.setSt_mem (b : Byte) : (s.setSt b).mem = s.mem := rfl
@[simp] theorem State.setSt_run (b : Byte) : (s.setSt b).run = s.run := rfl
@[simp] theorem State.setSt_diag (b : Byte) : (s.setSt b).diag = s.diag := rfl
@[simp] theorem State.setSt_sound (b : Byte) : (s.setSt b).sound = s.sound := rfl
@[simp] theorem State.setSt_shown (b : Byte) : (s.setSt b).shown = s.shown := rfl
@[simp] theorem State.setSt_cfg (b : Byte) : (s.setSt b).cfg = s.cfg := rfl
@[simp] theorem State.setSt_host (b : Byte) : (s.setSt b).host = s.host := rfl
@[simp] theorem State.getV_setSt (b : Byte) (y : Reg) : (s.setSt b).getV y = s.getV y := rfl
@[simp] theorem State.readByte_setSt (b : Byte) (n : Nat) : (s.setSt b).readByte n = s.readByte n := rfl

/-! ### `State.setRun` -/

@[simp] theorem State.setRun_v (r : Run) : (s.setRun r).v = s.v := rfl
@[simp] theorem State.setRun_i (r : Run) : (s.setRun r).i = s.i := rfl
@[simp] theorem State.setRun_pc (r : Run) : (s.setRun r).pc = s.pc := rfl
@[simp] theorem State.setRun_sp (r : Run) : (s.setRun r).sp = s.sp := rfl
@[simp] theorem State.setRun_stack (r : Run) : (s.setRun r).stack = s.stack := rfl
@[simp] theorem State.setRun_dt (r : Run) : (s.setRun r).dt = s.dt := rfl
@[simp] theorem State.setRun_st (r : Run) : (s.setRun r).st = s.st := rfl
@[simp] theorem State.setRun_fb (r : Run) : (s.setRun r).fb = s.fb := rfl
@[simp] theorem State.setRun_mem (r : Run) : (s.setRun r).mem = s.mem := rfl
@[simp] theorem State.setRun_run (r : Run) : (s.setRun r).run = r := rfl
@[simp] theorem State.setRun_diag (r : Run) : (s.setRun r).diag = s.diag := rfl
@[simp] theorem State.setRun_sound (r : Run) : (s.setRun r).sound = s.sound := rfl
@[simp] theorem State.setRun_shown (r : Run) : (s.setRun r).shown = s.shown := rfl
@[simp] theorem State.setRun_cfg (r : Run) : (s.setRun r).cfg = s.cfg := rfl
@[simp] theorem State.setRun_host (r : Run) : (s.setRun r).host = s.host := rfl
@[simp] theorem State.getV_setRun (r : Run) (y : Reg) : (s.setRun r).getV y = s.getV y := rfl
@[simp] theorem State.readByte_setRun (r : Run) (n : Nat) : (s.setRun r).readByte n = s.readByte n := rfl

/-! ### `State.setFb` -/

@[simp] theorem State.setFb_v (f : Framebuffer) : (s.setFb f).v = s.v := rfl
@[simp] theorem State.setFb_i (f : Framebuffer) : (s.setFb f).i = s.i := rfl
@[simp] theorem State.setFb_pc (f : Framebuffer) : (s.setFb f).pc = s.pc := rfl
@[simp] theorem State.setFb_sp (f : Framebuffer) : (s.setFb f).sp = s.sp := rfl
@[simp] theorem State.setFb_stack (f : Framebuffer) : (s.setFb f).stack = s.stack := rfl
@[simp] theorem State.setFb_dt (f : Framebuffer) : (s.setFb f).dt = s.dt := rfl
@[simp] theorem State.setFb_st (f : Framebuffer) : (s.setFb f).st = s.st := rfl
@[simp] theorem State.setFb_fb (f : Framebuffer) : (s.setFb f).fb = f := rfl
@[simp] theorem State.setFb_mem (f : Framebuffer) : (s.setFb f).mem = s.mem := rfl
@[simp] theorem State.setFb_run (f : Framebuffer) : (s.setFb f).run = s.run := rfl
@[simp] theorem State.setFb_diag (f : Framebuffer) : (s.setFb f).diag = s.diag := rfl
@[simp] theorem State.setFb_sound (f : Framebuffer) : (s.setFb f).sound = s.sound := rfl
@[simp] theorem State.setFb_shown (f : Framebuffer) : (s.setFb f).shown = s.shown := rfl
@[simp] theorem State.setFb_cfg (f : Framebuffer) : (s.setFb f).cfg = s.cfg := rfl
@[simp] theorem State.setFb_host (f : Framebuffer) : (s.setFb f).host = s.host := rfl
@[simp] theorem State.getV_setFb (f : Framebuffer) (y : Reg) : (s.setFb f).getV y = s.getV y := rfl
@[simp] theorem State.readByte_setFb (f : Framebuffer) (n : Nat) : (s.setFb f).readByte n = s.readByte n := rfl

/-! ### `State.setShown` -/

@[simp] theorem State.setShown_v (f : Framebuffer) : (s.setShown f).v = s.v := rfl
@[simp] theorem State.setShown_i (f : Framebuffer) : (s.setShown f).i = s.i := rfl
@[simp] theorem State.setShown_pc (f : Framebuffer) : (s.setShown f).pc = s.pc := rfl
@[simp] theorem State.setShown_sp (f : Framebuffer) : (s.setShown f).sp = s.sp := rfl
@[simp] theorem State.setShown_stack (f : Framebuffer) : (s.setShown f).stack = s.stack := rfl
@[simp] theorem State.setShown_dt (f : Framebuffer) : (s.setShown f).dt = s.dt := rfl
@[simp] theorem State.setShown_st (f : Framebuffer) : (s.setShown f).st = s.st := rfl
@[simp] theorem State.setShown_fb (f : Framebuffer) : (s.setShown f).fb = s.fb := rfl
@[simp] theorem State.setShown_mem (f : Framebuffer) : (s.setShown f).mem = s.mem := rfl
@[simp] theorem State.setShown_run (f : Framebuffer) : (s.setShown f).run = s.run := rfl
@[simp] theorem State.setShown_diag (f : Framebuffer) : (s.setShown f).diag = s.diag := rfl
@[simp] theorem State.setShown_sound (f : Framebuffer) : (s.setShown f).sound = s.sound := rfl
@[simp] theorem State.setShown_shown (f : Framebuffer) : (s.setShown f).shown = some f := rfl
@[simp] theorem State.setShown_cfg (f : Framebuffer) : (s.setShown f).cfg = s.cfg := rfl
@[simp] theorem State.setShown_host (f : Framebuffer) : (s.setShown f).host = s.host := rfl
@[simp] theorem State.getV_setShown (f : Framebuffer) (y : Reg) : (s.setShown f).getV y = s.getV y := rfl
@[simp] theorem State.readByte_setShown (f : Framebuffer) (n : Nat) : (s.setShown f).readByte n = s.readByte n := rfl

/-! ### `State.addSound` -/

@[simp] theorem State.addSound_v (c : SoundCall) : (s.addSound c).v = s.v := rfl
@[simp] theorem State.addSound_i (c : SoundCall) : (s.addSound c).i = s.i := rfl
@[simp] theorem State.addSound_pc (c : SoundCall) : (s.addSound c).pc = s.pc := rfl
@[simp] theorem State.addSound_sp (c : SoundCall) : (s.addSound c).sp = s.sp := rfl
@[simp] theorem State.addSound_stack (c : SoundCall) : (s.addSound c).stack = s.stack := rfl
@[simp] theorem State.addSound_dt (c : SoundCall) : (s.addSound c).dt = s.dt := rfl
@[simp] theorem State.addSound_st (c : SoundCall) : (s.addSound c).st = s.st := rfl
@[simp] theorem State.addSound_fb (c : SoundCall) : (s.addSound c).fb = s.fb := rfl
@[simp] theorem State.addSound_mem (c : SoundCall) : (s.addSound c).mem = s.mem := rfl
@[simp] theorem State.addSound_run (c : SoundCall) : (s.addSound c).run = s.run := rfl
@[simp] theorem State.addSound_diag (c : SoundCall) : (s.addSound c).diag = s.diag := rfl
@[simp] theorem State.addSound_sound (c : SoundCall) : (s.addSound c).sound = s.sound ++ [c] := rfl
@[simp] theorem State.addSound_shown (c : SoundCall) : (s.addSound c).shown = s.shown := rfl
@[simp] theorem State.addSound_cfg (c : SoundCall) : (s.addSound c).cfg = s.cfg := rfl
@[simp] theorem State.addSound_host (c : SoundCall) : (s.addSound c).host = s.host := rfl
@[simp] theorem State.getV_addSound (c : SoundCall) (y : Reg) : (s.addSound c).getV y = s.getV y := rfl
@[simp] theorem State.readByte_addSound (c : SoundCall) (n : Nat) : (s.addSound c).readByte n = s.readByte n := rfl

/-! ### `State.addDiag` -/

@[simp] theorem State.addDiag_v (d : Diagnostic) : (s.addDiag d).v = s.v := rfl
@[simp] theorem State.addDiag_i (d : Diagnostic) : (s.addDiag d).i = s.i := rfl
@[simp] theorem State.addDiag_pc (d : Diagnostic) : (s.addDiag d).pc = s.pc := rfl
@[simp] theorem State.addDiag_sp (d : Diagnostic) : (s.addDiag d).sp = s.sp := rfl
@[simp] theorem State.addDiag_stack (d : Diagnostic) : (s.addDiag d).stack = s.stack := rfl
@[simp] theorem State.addDiag_dt (d : Diagnostic) : (s.addDiag d).dt = s.dt := rfl
@[simp] theorem State.addDiag_st (d : Diagnostic) : (s.addDiag d).st = s.st := rfl
@[simp] theorem State.addDiag_fb (d : Diagnostic) : (s.addDiag d).fb = s.fb := rfl
@[simp] theorem State.addDiag_mem (d : Diagnostic) : (s.addDiag d).mem = s.mem := rfl
@[simp] theorem State.addDiag_run (d : Diagnostic) : (s.addDiag d).run = s.run := rfl
@[simp] theorem State.addDiag_diag (d : Diagnostic) : (s.addDiag d).diag = s.diag ++ [d] := rfl
@[simp] theorem State.addDiag_sound (d : Diagnostic) : (s.addDiag d).sound = s.sound := rfl
@[simp] theorem State.addDiag_shown (d : Diagnostic) : (s.addDiag d).shown = s.shown := rfl
@[simp] theorem State.addDiag_cfg (d : Diagnostic) : (s.addDiag d).cfg = s.cfg := rfl
@[simp] theorem State.addDiag_host (d : Diagnostic) : (s.addDiag d).host = s.host := rfl
@[simp] theorem State.getV_addDiag (d : Diagnostic) (y : Reg) : (s.addDiag d).getV y = s.getV y := rfl
@[simp] theorem State.readByte_addDiag (d : Diagnostic) (n : Nat) : (s.addDiag d).readByte n = s.readByte n := rfl

/-! ### `State.setHost` -/

@[simp] theorem State.setHost_v (h : HostInputs) : (s.setHost h).v = s.v := rfl
@[simp] theorem State.setHost_i (h : HostInputs) : (s.setHost h).i = s.i := rfl
@[simp] theorem State.setHost_pc (h : HostInputs) : (s.setHost h).pc = s.pc := rfl
@[simp] theorem State.setHost_sp (h : HostInputs) : (s.setHost h).sp = s.sp := rfl
@[simp] theorem State.setHost_stack (h : HostInputs) : (s.setHost h).stack = s.stack := rfl
@[simp] theorem State.setHost_dt (h : HostInputs) : (s.setHost h).dt = s.dt := rfl
@[simp] theorem State.setHost_st (h : HostInputs) : (s.setHost h).st = s.st := rfl
@[simp] theorem State.setHost_fb (h : HostInputs) : (s.setHost h).fb = s.fb := rfl
@[simp] theorem State.setHost_mem (h : HostInputs) : (s.setHost h).mem = s.mem := rfl
@[simp] theorem State.setHost_run (h : HostInputs) : (s.setHost h).run = s.run := rfl
@[simp] theorem State.setHost_diag (h : HostInputs) : (s.setHost h).diag = s.diag := rfl
@[simp] theorem State.setHost_sound (h : HostInputs) : (s.setHost h).sound = s.sound := rfl
@[simp] theorem State.setHost_shown (h : HostInputs) : (s.setHost h).shown = s.shown := rfl
@[simp] theorem State.setHost_cfg (h : HostInputs) : (s.setHost h).cfg = s.cfg := rfl
@[simp] theorem State.setHost_host (h : HostInputs) : (s.setHost h).host = h := rfl
@[simp] theorem State.getV_setHost (h : HostInputs) (y : Reg) : (s.setHost h).getV y = s.getV y := rfl
@[simp] theorem State.readByte_setHost (h : HostInputs) (n : Nat) : (s.setHost h).readByte n = s.readByte n := rfl

/-! ### `State.setV` -/

@[simp] theorem State.setV_i (x : Reg) (b : Byte) : (s.setV x b).i = s.i := rfl
@[simp] theorem State.setV_pc (x : Reg) (b : Byte) : (s.setV x b).pc = s.pc := rfl
@[simp] theorem State.setV_sp (x : Reg) (b : Byte) : (s.setV x b).sp = s.sp := rfl
@[simp] theorem State.setV_stack (x : Reg) (b : Byte) : (s.setV x b).stack = s.stack := rfl
@[simp] theorem State.setV_dt (x : Reg) (b : Byte) : (s.setV x b).dt = s.dt := rfl
@[simp] theorem State.setV_st (x : Reg) (b : Byte) : (s.setV x b).st = s.st := rfl
@[simp] theorem State.setV_fb (x : Reg) (b : Byte) : (s.setV x b).fb = s.fb := rfl
@[simp] theorem State.setV_mem (x : Reg) (b : Byte) : (s.setV x b).mem = s.mem := rfl
@[simp] theorem State.setV_run (x : Reg) (b : Byte) : (s.setV x b).run = s.run := rfl
@[simp] theorem State.setV_diag (x : Reg) (b : Byte) : (s.setV x b).diag = s.diag := rfl
@[simp] theorem State.setV_sound (x : Reg) (b : Byte) : (s.setV x b).sound = s.sound := rfl
@[simp] theorem State.setV_shown (x : Reg) (b : Byte) : (s.setV x b).shown = s.shown := rfl
@[simp] theorem State.setV_cfg (x : Reg) (b : Byte) : (s.setV x b).cfg = s.cfg := rfl
@[simp] theorem State.setV_host (x : Reg) (b : Byte) : (s.setV x b).host = s.host := rfl
@[simp] theorem State.readByte_setV (x : Reg) (b : Byte) (n : Nat) : (s.setV x b).readByte n = s.readByte n := rfl

/-! ### `State.setStack` -/

@[simp] theorem State.setStack_v (p : Byte) (k : Vector Word 16) : (s.setStack p k).v = s.v := rfl
@[simp] theorem State.setStack_i (p : Byte) (k : Vector Word 16) : (s.setStack p k).i = s.i := rfl
@[simp] theorem State.setStack_pc (p : Byte) (k : Vector Word 16) : (s.setStack p k).pc = s.pc := rfl
@[simp] theorem State.setStack_sp (p : Byte) (k : Vector Word 16) : (s.setStack p k).sp = p := rfl
@[simp] theorem State.setStack_stack (p : Byte) (k : Vector Word 16) : (s.setStack p k).stack = k := rfl
@[simp] theorem State.setStack_dt (p : Byte) (k : Vector Word 16) : (s.setStack p k).dt = s.dt := rfl
@[simp] theorem State.setStack_st (p : Byte) (k : Vector Word 16) : (s.setStack p k).st = s.st := rfl
@[simp] theorem State.setStack_fb (p : Byte) (k : Vector Word 16) : (s.setStack p k).fb = s.fb := rfl
@[simp] theorem State.setStack_mem (p : Byte) (k : Vector Word 16) : (s.setStack p k).mem = s.mem := rfl
@[simp] theorem State.setStack_run (p : Byte) (k : Vector Word 16) : (s.setStack p k).run = s.run := rfl
@[simp] theorem State.setStack_diag (p : Byte) (k : Vector Word 16) : (s.setStack p k).diag = s.diag := rfl
@[simp] theorem State.setStack_sound (p : Byte) (k : Vector Word 16) : (s.setStack p k).sound = s.sound := rfl
@[simp] theorem State.setStack_shown (p : Byte) (k : Vector Word 16) : (s.setStack p k).shown = s.shown := rfl
@[simp] theorem State.setStack_cfg (p : Byte) (k : Vector Word 16) : (s.setStack p k).cfg = s.cfg := rfl
@[simp] theorem State.setStack_host (p : Byte) (k : Vector Word 16) : (s.setStack p k).host = s.host := rfl
@[simp] theorem State.getV_setStack (p : Byte) (k : Vector Word 16) (y : Reg) : (s.setStack p k).getV y = s.getV y := rfl
@[simp] theorem State.readByte_setStack (p : Byte) (k : Vector Word 16) (n : Nat) : (s.setStack p k).readByte n = s.readByte n := rfl

/-! ### `State.writeByte` -/

@[simp] theorem State.writeByte_v (a : Nat) (b : Byte) : (s.writeByte a b).v = s.v := rfl
@[simp] theorem State.writeByte_i (a : Nat) (b : Byte) : (s.writeByte a b).i = s.i := rfl
@[simp] theorem State.writeByte_pc (a : Nat) (b : Byte) : (s.writeByte a b).pc = s.pc := rfl
@[simp] theorem State.writeByte_sp (a : Nat) (b : Byte) : (s.writeByte a b).sp = s.sp := rfl
@[simp] theorem State.writeByte_stack (a : Nat) (b : Byte) : (s.writeByte a b).stack = s.stack := rfl
@[simp] theorem State.writeByte_dt (a : Nat) (b : Byte) : (s.writeByte a b).dt = s.dt := rfl
@[simp] theorem State.writeByte_st (a : Nat) (b : Byte) : (s.writeByte a b).st = s.st := rfl
@[simp] theorem State.writeByte_fb (a : Nat) (b : Byte) : (s.writeByte a b).fb = s.fb := rfl
@[simp] theorem State.writeByte_mem (a : Nat) (b : Byte) : (s.writeByte a b).mem = memWrite s.cfg s.mem a b := rfl
@[simp] theorem State.writeByte_run (a : Nat) (b : Byte) : (s.writeByte a b).run = s.run := rfl
@[simp] theorem State.writeByte_diag (a : Nat) (b : Byte) : (s.writeByte a b).diag = s.diag := rfl
@[simp] theorem State.writeByte_sound (a : Nat) (b : Byte) : (s.writeByte a b).sound = s.sound := rfl
@[simp] theorem State.writeByte_shown (a : Nat) (b : Byte) : (s.writeByte a b).shown = s.shown := rfl
@[simp] theorem State.writeByte_cfg (a : Nat) (b : Byte) : (s.writeByte a b).cfg = s.cfg := rfl
@[simp] theorem State.writeByte_host (a : Nat) (b : Byte) : (s.writeByte a b).host = s.host := rfl
@[simp] theorem State.getV_writeByte (a : Nat) (b : Byte) (y : Reg) : (s.writeByte a b).getV y = s.getV y := rfl

/-! ### Registers -/

@[simp] theorem State.getV_setV_self (x : Reg) (b : Byte) : (s.setV x b).getV x = b := by
  simp [State.getV, State.setV]

theorem State.getV_setV_of_ne {x y : Reg} (b : Byte) (h : y ≠ x) : (s.setV x b).getV y = s.getV y := by
  have hn : x.toNat ≠ y.toNat := fun e => h (BitVec.eq_of_toNat_eq e.symm)
  simp [State.getV, State.setV, hn]

theorem State.getV_setV (x y : Reg) (b : Byte) : (s.setV x b).getV y = if y = x then b else s.getV y := by
  split
  · next h => subst h; simp
  · next h => exact s.getV_setV_of_ne b h

theorem State.getV_setFlag (b : Bool) (y : Reg) :
    (s.setFlag b).getV y = if y = 15 then flagByte b else s.getV y := s.getV_setV 15 y _

/-- Two register files that read alike are equal. -/
theorem State.v_ext {s t : State} (h : ∀ x : Reg, t.getV x = s.getV x) : t.v = s.v := by
  apply Vector.ext
  intro k hk
  have := h (BitVec.ofNat 4 k)
  simpa [State.getV, Nat.mod_eq_of_lt hk] using this

end Sys2Proof.Machine
end

