-- ==== Sys2Proof/Laws/Memory.lean ====
section
/-! SUPPORT. The laws of memory: a read after a write, what a write leaves alone, and that every operation keeps the
canonical form. -/

namespace Sys2Proof.Machine

theorem memLookup_memInsert (m : Memory) (a k : Nat) (b : Byte) :
    memLookup (memInsert m a b) k = if k = a then some b else memLookup m k := by
  induction m with
  | nil => simp [memInsert, memLookup, eq_comm]
  | cons cell m ih =>
    obtain ⟨n, v⟩ := cell
    simp only [memInsert]
    split_ifs <;> simp_all [memLookup, eq_comm]

theorem memLookup_memErase (m : Memory) (a k : Nat) :
    memLookup (memErase m a) k = if k = a then none else memLookup m k := by
  induction m with
  | nil => simp [memErase, memLookup]
  | cons cell m ih =>
    obtain ⟨n, v⟩ := cell
    simp only [memErase]
    split_ifs <;> simp_all [memLookup]
    all_goals intros; simp_all

/-- A byte written reads back, and every other byte reads as before. -/
theorem memRead_memWrite (c : Config) (m : Memory) (a k : Nat) (b : Byte) :
    memRead c (memWrite c m a b) k = if k = a then b else memRead c m k := by
  unfold memRead memWrite
  split_ifs with h1 h2 h2 <;> simp [memLookup_memInsert, memLookup_memErase, h2]
  exact h1.symm

theorem memRead_nil (c : Config) (a : Nat) : memRead c [] a = resetByte c a := rfl

theorem Memory.wf_iff (c : Config) (m : Memory) :
    Memory.wf c m = true ↔
      m.Pairwise (·.1 < ·.1) ∧ ∀ cell ∈ m, cell.1 < memSize ∧ cell.2 ≠ resetByte c cell.1 := by
  induction m with
  | nil => simp [Memory.wf]
  | cons cell m ih =>
    obtain ⟨a, b⟩ := cell
    simp only [Memory.wf, Bool.and_eq_true, List.all_eq_true, decide_eq_true_eq, ih, List.pairwise_cons,
      List.mem_cons, forall_eq_or_imp]
    tauto

theorem mem_memErase {m : Memory} {a : Nat} {cell : Host.Cell} (h : cell ∈ memErase m a) : cell ∈ m := by
  induction m with
  | nil => simp [memErase] at h
  | cons c m ih =>
    simp only [memErase] at h
    split_ifs at h <;> simp_all
    tauto

theorem mem_memInsert {m : Memory} {a : Nat} {b : Byte} {cell : Host.Cell} (h : cell ∈ memInsert m a b) :
    cell = (a, b) ∨ cell ∈ m := by
  induction m with
  | nil => simpa [memInsert] using h
  | cons c m ih =>
    simp only [memInsert] at h
    split_ifs at h <;> simp_all
    all_goals tauto

theorem memErase_pairwise {m : Memory} (a : Nat) (h : m.Pairwise (·.1 < ·.1)) :
    (memErase m a).Pairwise (·.1 < ·.1) := by
  induction m with
  | nil => simp [memErase]
  | cons c m ih =>
    rw [List.pairwise_cons] at h
    simp only [memErase]
    split_ifs
    · exact ih h.2
    · exact List.pairwise_cons.2 ⟨fun x hx => h.1 x (mem_memErase hx), ih h.2⟩

theorem memInsert_pairwise {m : Memory} (a : Nat) (b : Byte) (h : m.Pairwise (·.1 < ·.1)) :
    (memInsert m a b).Pairwise (·.1 < ·.1) := by
  induction m with
  | nil => simp [memInsert]
  | cons c m ih =>
    have h' := h
    rw [List.pairwise_cons] at h
    simp only [memInsert]
    split_ifs with h1 h2
    · refine List.pairwise_cons.2 ⟨fun x hx => ?_, h'⟩
      rcases List.mem_cons.1 hx with rfl | hx
      · exact h1
      · exact lt_trans h1 (h.1 x hx)
    · refine List.pairwise_cons.2 ⟨fun x hx => ?_, h.2⟩
      have := h.1 x hx
      simp only at this ⊢
      omega
    · refine List.pairwise_cons.2 ⟨fun x hx => ?_, ih h.2⟩
      rcases mem_memInsert hx with rfl | hx
      · simp only
        omega
      · exact h.1 x hx

/-- A write inside the address space keeps the canonical form. -/
theorem memWrite_wf {c : Config} {m : Memory} {a : Nat} (b : Byte) (h : Memory.wf c m = true) (ha : a < memSize) :
    Memory.wf c (memWrite c m a b) = true := by
  rw [Memory.wf_iff] at h ⊢
  unfold memWrite
  split_ifs with hb
  · exact ⟨memErase_pairwise a h.1, fun x hx => h.2 x (mem_memErase hx)⟩
  · refine ⟨memInsert_pairwise a b h.1, fun x hx => ?_⟩
    rcases mem_memInsert hx with rfl | hx
    · exact ⟨ha, hb⟩
    · exact h.2 x hx

/-- The memory of the reset state is in the canonical form. -/
theorem reset_mem_wf (c : Config) : Memory.wf c (State.resetWith c).mem = true := rfl

/-! ### Reads and writes of the state -/

theorem State.readByte_writeByte (s : State) (a k : Nat) (b : Byte) :
    (s.writeByte a b).readByte k = if k = a then b else s.readByte k := memRead_memWrite s.cfg s.mem a k b

/-- What writing bytes from `base` on leaves: the bytes written, and every other byte as before. -/
theorem State.readByte_writeBytes (bs : List Byte) (s : State) (base k : Nat) :
    (s.writeBytes base bs).readByte k =
      if base ≤ k ∧ k < base + bs.length then bs.getD (k - base) 0 else s.readByte k := by
  induction bs generalizing s base with
  | nil =>
    simp only [writeBytes, List.length_nil]
    split_ifs with h
    · omega
    · rfl
  | cons b bs ih =>
    simp only [writeBytes, ih, State.readByte_writeByte, List.length_cons]
    by_cases hk : k = base
    · subst hk
      simp
    · by_cases hr : base + 1 ≤ k ∧ k < base + 1 + bs.length
      · have hn : k - base = k - (base + 1) + 1 := by omega
        rw [if_pos hr, if_pos (by omega), hn]
        rfl
      · rw [if_neg hr, if_neg hk, if_neg (by omega)]

theorem State.writeBytes_length_wf {bs : List Byte} {s : State} {base : Nat} (h : Memory.wf s.cfg s.mem = true)
    (hb : base + bs.length ≤ memSize) : Memory.wf s.cfg (s.writeBytes base bs).mem = true := by
  induction bs generalizing s base with
  | nil => exact h
  | cons b bs ih =>
    simp only [writeBytes]
    simp only [List.length_cons] at hb
    exact ih (s := s.writeByte base b) (memWrite_wf b h (by omega)) (by omega)

/-- Writing bytes changes memory and nothing else. -/
theorem State.writeBytes_eq (bs : List Byte) (s : State) (base : Nat) :
    s.writeBytes base bs = { s with mem := (s.writeBytes base bs).mem } := by
  induction bs generalizing s base with
  | nil => rfl
  | cons b bs ih =>
    simp only [writeBytes]
    rw [ih]
    rfl

theorem State.readBytes_length (s : State) (base n : Nat) : (s.readBytes base n).length = n := by
  induction n generalizing base with
  | zero => rfl
  | succ n ih => simp [readBytes, ih]

theorem State.readBytes_getD (s : State) (base n k : Nat) (h : k < n) :
    (s.readBytes base n).getD k 0 = s.readByte (base + k) := by
  induction n generalizing base k with
  | zero => omega
  | succ n ih =>
    cases k with
    | zero => rfl
    | succ k =>
      have := ih (base + 1) k (by omega)
      simp only [readBytes, List.getD_cons_succ, this]
      congr 1
      omega

end Sys2Proof.Machine
end

