-- ==== Sys2Proof/Laws/Ops.lean ====
section
/-! SUPPORT. What each shared operation can do, said once. -/

namespace Sys2Proof.Machine

variable (s : State)

/-! ### Advancing, faulting -/

/-- An advance either moves PC, or halts at the end of the address space. -/
theorem State.advance_cases (n : Nat) :
    (s.pc.toNat + n ≤ 0xFFFF ∧ s.advance n = s.setPc (BitVec.ofNat 16 (s.pc.toNat + n))) ∨
      (0xFFFF < s.pc.toNat + n ∧ s.advance n = s.setRun (.halted .pcOverflow)) := by
  unfold State.advance
  split_ifs with h
  · exact .inr ⟨h, rfl⟩
  · exact .inl ⟨by omega, rfl⟩

/-- An advance changes PC and `run` alone. -/
theorem State.advance_eq (n : Nat) : s.advance n = { s with pc := (s.advance n).pc, run := (s.advance n).run } := by
  rcases s.advance_cases n with ⟨-, h⟩ | ⟨-, h⟩ <;> rw [h] <;> rfl

@[simp] theorem State.advance_v (n : Nat) : (s.advance n).v = s.v := by rw [advance_eq]
@[simp] theorem State.advance_i (n : Nat) : (s.advance n).i = s.i := by rw [advance_eq]
@[simp] theorem State.advance_sp (n : Nat) : (s.advance n).sp = s.sp := by rw [advance_eq]
@[simp] theorem State.advance_stack (n : Nat) : (s.advance n).stack = s.stack := by rw [advance_eq]
@[simp] theorem State.advance_dt (n : Nat) : (s.advance n).dt = s.dt := by rw [advance_eq]
@[simp] theorem State.advance_st (n : Nat) : (s.advance n).st = s.st := by rw [advance_eq]
@[simp] theorem State.advance_fb (n : Nat) : (s.advance n).fb = s.fb := by rw [advance_eq]
@[simp] theorem State.advance_mem (n : Nat) : (s.advance n).mem = s.mem := by rw [advance_eq]
@[simp] theorem State.advance_diag (n : Nat) : (s.advance n).diag = s.diag := by rw [advance_eq]
@[simp] theorem State.advance_sound (n : Nat) : (s.advance n).sound = s.sound := by rw [advance_eq]
@[simp] theorem State.advance_shown (n : Nat) : (s.advance n).shown = s.shown := by rw [advance_eq]
@[simp] theorem State.advance_cfg (n : Nat) : (s.advance n).cfg = s.cfg := by rw [advance_eq]
@[simp] theorem State.advance_host (n : Nat) : (s.advance n).host = s.host := by rw [advance_eq]
@[simp] theorem State.getV_advance (n : Nat) (x : Reg) : (s.advance n).getV x = s.getV x := by rw [advance_eq]; rfl
@[simp] theorem State.readByte_advance (n a : Nat) : (s.advance n).readByte a = s.readByte a := by
  rw [advance_eq]; rfl

/-- Where it can move on, an advance does what `AdvancesBy` says; here with the PC and `run` it starts from. -/
theorem State.advance_pc_run (n : Nat) (h : s.pc.toNat + n ≤ 0xFFFF) :
    (s.advance n).pc.toNat = s.pc.toNat + n ∧ (s.advance n).run = s.run := by
  rcases s.advance_cases n with ⟨-, e⟩ | ⟨g, -⟩
  · rw [e]
    simp only [setPc_pc, setPc_run, and_true, BitVec.toNat_ofNat]
    omega
  · omega

theorem advancesBy_advance {s t : State} {n : Nat} (hpc : t.pc = s.pc) (hrun : t.run = s.run) :
    AdvancesBy n s (t.advance n) := by
  intro h
  have := t.advance_pc_run n (by rw [hpc]; exact h)
  rwa [hpc, hrun] at this

/-- A skip advances by 4 or by 2. -/
theorem State.skipIf_cases (c : Bool) : s.skipIf c = s.advance 4 ∧ c = true ∨ s.skipIf c = s.advance 2 ∧ c = false := by
  cases c
  · exact .inr ⟨rfl, rfl⟩
  · exact .inl ⟨rfl, rfl⟩

theorem skipsWhen_skipIf {s t : State} {c : Bool} {p : Prop} (hc : c = true ↔ p) (hpc : t.pc = s.pc)
    (hrun : t.run = s.run) : SkipsWhen p s (t.skipIf c) := by
  constructor
  · intro h
    rw [hc.2 h]
    exact advancesBy_advance hpc hrun
  · intro h
    have : c = false := by
      cases c
      · rfl
      · exact absurd (hc.1 rfl) h
    rw [this]
    exact advancesBy_advance hpc hrun

/-- Taking a fault changes `run` alone. -/
theorem State.raise_def (f : FaultKind) (w : Option Word) (a : Option Nat) :
    s.raise f w a = s.setRun (.faulted f s.pc w a) := rfl

theorem entersFault_raise (f : FaultKind) (w : Option Word) (a : Option Nat) : EntersFault f w a s (s.raise f w a) := by
  refine ⟨rfl, fun p hp => ?_⟩
  cases p <;> first | rfl | simp at hp

/-! ### The stack -/

/-- A push fills the next slot, or finds the stack full. -/
theorem State.push_cases (v : Word) :
    (16 ≤ s.sp.toNat ∧ s.push v = none) ∨
      ∃ h : s.sp.toNat < 16, s.push v = some (s.setStack (s.sp + 1) (s.stack.set s.sp.toNat v)) := by
  by_cases h : s.sp.toNat < 16
  · exact .inr ⟨h, by simp [push, h]⟩
  · exact .inl ⟨by omega, by simp [push, h]⟩

/-- A pop gives the last used slot, or finds the stack empty (or SP illegal). -/
theorem State.pop_cases :
    ((s.sp.toNat = 0 ∨ 16 < s.sp.toNat) ∧ s.pop = none) ∨
      ∃ h : 0 < s.sp.toNat ∧ s.sp.toNat ≤ 16,
        s.pop = some (s.stack[s.sp.toNat - 1]'(by omega), s.setStack (s.sp - 1) s.stack) := by
  by_cases h : 0 < s.sp.toNat ∧ s.sp.toNat ≤ 16
  · exact .inr ⟨h, by simp [pop, h]⟩
  · exact .inl ⟨by omega, by simp [pop, h]⟩

/-! ### Host draws: each changes the host inputs alone -/

/-- A random draw takes the pending byte, or a free one. -/
theorem State.drawRandom_cases :
    (∃ r rs, s.host.randoms = r :: rs ∧ s.drawRandom = (r, s.setHost { s.host with randoms := rs })) ∨
      (s.host.randoms = [] ∧
        s.drawRandom = (Config.freeByte s.host.drawn, s.setHost { s.host with drawn := s.host.drawn + 1 })) := by
  unfold drawRandom
  split
  · next r rs h => exact .inl ⟨r, rs, h, rfl⟩
  · next h => exact .inr ⟨h, rfl⟩

/-- A key sample takes the pending one, or a free one. -/
theorem State.drawKeys_cases :
    (∃ k ks, s.host.keys = k :: ks ∧ s.drawKeys = (k, s.setHost { s.host with keys := ks })) ∨
      (s.host.keys = [] ∧
        s.drawKeys = (Config.freeKeys s.host.drawn, s.setHost { s.host with drawn := s.host.drawn + 1 })) := by
  unfold drawKeys
  split
  · next k ks h => exact .inl ⟨k, ks, h, rfl⟩
  · next h => exact .inr ⟨h, rfl⟩

/-- A port outcome is the pending one, or a free one. -/
theorem State.drawPortOk_cases :
    (∃ p ps, s.host.portOks = p :: ps ∧ s.drawPortOk = (p, s.setHost { s.host with portOks := ps })) ∨
      (s.host.portOks = [] ∧
        s.drawPortOk = (Config.freePortOk s.host.drawn, s.setHost { s.host with drawn := s.host.drawn + 1 })) := by
  unfold drawPortOk
  split
  · next p ps h => exact .inl ⟨p, ps, h, rfl⟩
  · next h => exact .inr ⟨h, rfl⟩

/-- The scheduler's choice is the pending one, or a free one. -/
theorem State.drawEvent_cases :
    (∃ e es, s.host.events = e :: es ∧ s.drawEvent = (e, s.setHost { s.host with events := es })) ∨
      (s.host.events = [] ∧
        s.drawEvent = (Config.freeEvent s.host.drawn, s.setHost { s.host with drawn := s.host.drawn + 1 })) := by
  unfold drawEvent
  split
  · next e es h => exact .inl ⟨e, es, h, rfl⟩
  · next h => exact .inr ⟨h, rfl⟩

theorem State.drawRandom_eq : s.drawRandom.2 = s.setHost s.drawRandom.2.host := by
  rcases s.drawRandom_cases with ⟨r, rs, -, h⟩ | ⟨-, h⟩ <;> rw [h] <;> rfl

theorem State.drawKeys_eq : s.drawKeys.2 = s.setHost s.drawKeys.2.host := by
  rcases s.drawKeys_cases with ⟨r, rs, -, h⟩ | ⟨-, h⟩ <;> rw [h] <;> rfl

theorem State.drawPortOk_eq : s.drawPortOk.2 = s.setHost s.drawPortOk.2.host := by
  rcases s.drawPortOk_cases with ⟨r, rs, -, h⟩ | ⟨-, h⟩ <;> rw [h] <;> rfl

theorem State.drawEvent_eq : s.drawEvent.2 = s.setHost s.drawEvent.2.host := by
  rcases s.drawEvent_cases with ⟨r, rs, -, h⟩ | ⟨-, h⟩ <;> rw [h] <;> rfl

/-- A port draw touches only the pending port outcomes and the counter. -/
theorem State.drawPortOk_host :
    s.drawPortOk.2.host.events = s.host.events ∧ s.drawPortOk.2.host.randoms = s.host.randoms ∧
      s.drawPortOk.2.host.keys = s.host.keys := by
  rcases s.drawPortOk_cases with ⟨r, rs, -, h⟩ | ⟨-, h⟩ <;> rw [h] <;> exact ⟨rfl, rfl, rfl⟩

/-- A random draw touches only the pending bytes and the counter. -/
theorem State.drawRandom_host :
    s.drawRandom.2.host.events = s.host.events ∧ s.drawRandom.2.host.portOks = s.host.portOks ∧
      s.drawRandom.2.host.keys = s.host.keys := by
  rcases s.drawRandom_cases with ⟨r, rs, -, h⟩ | ⟨-, h⟩ <;> rw [h] <;> exact ⟨rfl, rfl, rfl⟩

/-- A key sample touches only the pending samples and the counter. -/
theorem State.drawKeys_host :
    s.drawKeys.2.host.events = s.host.events ∧ s.drawKeys.2.host.portOks = s.host.portOks ∧
      s.drawKeys.2.host.randoms = s.host.randoms := by
  rcases s.drawKeys_cases with ⟨r, rs, -, h⟩ | ⟨-, h⟩ <;> rw [h] <;> exact ⟨rfl, rfl, rfl⟩

/-- The scheduler's choice touches only the pending events and the counter. -/
theorem State.drawEvent_host :
    s.drawEvent.2.host.randoms = s.host.randoms ∧ s.drawEvent.2.host.portOks = s.host.portOks ∧
      s.drawEvent.2.host.keys = s.host.keys := by
  rcases s.drawEvent_cases with ⟨r, rs, -, h⟩ | ⟨-, h⟩ <;> rw [h] <;> exact ⟨rfl, rfl, rfl⟩

/-! ### The display -/

theorem pixel_wrap (f : Framebuffer) (x y : Nat) : pixel f (x % 64) (y % 32) = pixel f x y := by
  simp [pixel]

/-- A toggle flips the wrapped pixel and no other. -/
theorem pixel_togglePixel (f : Framebuffer) (x y px py : Nat) :
    pixel (togglePixel f x y).1 px py =
      if px % 64 = x % 64 ∧ py % 32 = y % 32 then !pixel f px py else pixel f px py := by
  simp only [pixel, togglePixel, Vector.getElem_set]
  by_cases hy : y % 32 = py % 32
  · by_cases hx : x % 64 = px % 64
    · simp [hx, hy]
    · simp [hx, hy, Ne.symm hx]
  · simp [hy, Ne.symm hy]

theorem togglePixel_was (f : Framebuffer) (x y : Nat) : (togglePixel f x y).2 = pixel f x y := rfl

/-- Two screens that agree on every pixel are equal. -/
theorem fb_ext {f g : Framebuffer} (h : ∀ x y, x < 64 → y < 32 → pixel f x y = pixel g x y) : f = g := by
  apply Vector.ext
  intro y hy
  apply Vector.ext
  intro x hx
  simpa [pixel, Nat.mod_eq_of_lt hx, Nat.mod_eq_of_lt hy] using h x y hx hy

theorem pixel_clearFb (x y : Nat) : pixel clearFb x y = false := by
  simp [pixel, clearFb]

/-- A push records the snapshot and draws the port's outcome. -/
theorem State.displayPush_eq :
    s.displayPush = ((s.setShown s.fb).drawPortOk.1, (s.setShown s.fb).setHost (s.setShown s.fb).drawPortOk.2.host) :=
  Prod.ext rfl (s.setShown s.fb).drawPortOk_eq

/-- Drawing rows changes the screen, the snapshot and the host inputs alone. -/
theorem State.drawRows_eq (bs : List Byte) (s : State) (x y : Nat) (c : Bool) :
    (s.drawRows x y c bs).1 =
      { s with
        fb := (s.drawRows x y c bs).1.fb, shown := (s.drawRows x y c bs).1.shown,
        host := (s.drawRows x y c bs).1.host } := by
  induction bs generalizing s y c with
  | nil => rfl
  | cons b bs ih =>
    simp only [drawRows, displayPush_eq]
    split
    · next h =>
      rw [Prod.mk.injEq] at h
      rw [ih, ← h.2]
      rfl
    · next h =>
      rw [Prod.mk.injEq] at h
      rw [← h.2]
      rfl

/-- Drawing rows touches only the port outcomes and the counter of the host inputs. -/
theorem State.drawRows_host (bs : List Byte) (s : State) (x y : Nat) (c : Bool) :
    (s.drawRows x y c bs).1.host.events = s.host.events ∧ (s.drawRows x y c bs).1.host.randoms = s.host.randoms ∧
      (s.drawRows x y c bs).1.host.keys = s.host.keys := by
  induction bs generalizing s y c with
  | nil => exact ⟨rfl, rfl, rfl⟩
  | cons b bs ih =>
    have hp := ((s.setFb (drawByte s.fb b x y).1).setShown (drawByte s.fb b x y).1).drawPortOk_host
    simp only [drawRows, displayPush]
    split
    · next h =>
      have h2 := congrArg Prod.snd h
      simp only at h2
      rw [← h2]
      have hi := ih (s := ((s.setFb (drawByte s.fb b x y).1).setShown (drawByte s.fb b x y).1).drawPortOk.2)
        (y := y + 1) (c := c || (drawByte s.fb b x y).2)
      exact ⟨hi.1.trans hp.1, hi.2.1.trans hp.2.1, hi.2.2.trans hp.2.2⟩
    · next h =>
      have h2 := congrArg Prod.snd h
      simp only at h2
      rw [← h2]
      exact hp

/-! ### Sound -/

/-- Writing ST makes a SoundPort call exactly where `sound_on` changes. -/
theorem State.writeSt_cases (b : Byte) :
    (s.st = 0 ∧ b ≠ 0 ∧ s.writeSt b = ((s.setSt b).addSound (.start Config.soundFreqHz)).drawPortOk) ∨
      (s.st ≠ 0 ∧ b = 0 ∧ s.writeSt b = ((s.setSt b).addSound .stop).drawPortOk) ∨
      ((s.st = 0 ↔ b = 0) ∧ s.writeSt b = (true, s.setSt b)) := by
  unfold writeSt
  split_ifs with h1 h2
  · exact .inl ⟨h1.1, h1.2, rfl⟩
  · exact .inr (.inl ⟨h2.1, h2.2, rfl⟩)
  · exact .inr (.inr ⟨by tauto, rfl⟩)

/-- Writing ST changes ST, the sound calls and the host inputs alone. -/
theorem State.writeSt_eq (b : Byte) :
    (s.writeSt b).2 = { s with st := b, sound := (s.writeSt b).2.sound, host := (s.writeSt b).2.host } := by
  rcases s.writeSt_cases b with ⟨-, -, h⟩ | ⟨-, -, h⟩ | ⟨-, h⟩ <;> rw [h]
  · rw [State.drawPortOk_eq]; rfl
  · rw [State.drawPortOk_eq]; rfl
  · rfl

/-- Writing ST touches only the port outcomes and the counter of the host inputs. -/
theorem State.writeSt_host (b : Byte) :
    (s.writeSt b).2.host.events = s.host.events ∧ (s.writeSt b).2.host.randoms = s.host.randoms ∧
      (s.writeSt b).2.host.keys = s.host.keys := by
  rcases s.writeSt_cases b with ⟨-, -, h⟩ | ⟨-, -, h⟩ | ⟨-, h⟩ <;> rw [h]
  · exact State.drawPortOk_host _
  · exact State.drawPortOk_host _
  · exact ⟨rfl, rfl, rfl⟩

/-- After a write of ST the tone follows ST, if it did before. -/
theorem State.writeSt_tone (b : Byte) (h : tonePlaying s.sound = s.soundOn) :
    tonePlaying (s.writeSt b).2.sound = (s.writeSt b).2.soundOn := by
  rcases s.writeSt_cases b with ⟨-, hb, e⟩ | ⟨-, hb, e⟩ | ⟨hb, e⟩ <;> rw [e]
  · rw [State.drawPortOk_eq]
    have hd : decide (b ≠ 0) = true := decide_eq_true hb
    rw [show ((((s.setSt b).addSound (.start Config.soundFreqHz)).setHost _).soundOn = decide (b ≠ 0)) from rfl, hd]
    simp [tonePlaying]
  · rw [State.drawPortOk_eq]
    simp [tonePlaying, soundOn, hb]
  · have hd : decide (s.st ≠ 0) = decide (b ≠ 0) := decide_eq_decide.2 (not_congr hb)
    exact h.trans hd

/-! ### Register ranges and I -/

/-- `IUpdate` changes I alone. -/
theorem State.updateI_eq (x : Reg) : s.updateI x = s.setI (s.updateI x).i := by
  unfold updateI
  split <;> rfl

theorem State.getVs_length (first n : Nat) : (s.getVs first n).length = n := by
  induction n generalizing first with
  | zero => rfl
  | succ n ih => simp [getVs, ih]

theorem State.getVs_getD (first n k : Nat) (h : k < n) :
    (s.getVs first n).getD k 0 = s.getV (BitVec.ofNat 4 (first + k)) := by
  induction n generalizing first k with
  | zero => omega
  | succ n ih =>
    cases k with
    | zero => rfl
    | succ k =>
      have := ih (first + 1) k (by omega)
      simp only [getVs, List.getD_cons_succ, this]
      congr 2
      omega

/-- Writing a register range changes the registers alone. -/
theorem State.setVs_eq (bs : List Byte) (s : State) (first : Nat) :
    s.setVs first bs = { s with v := (s.setVs first bs).v } := by
  induction bs generalizing s first with
  | nil => rfl
  | cons b bs ih =>
    simp only [setVs]
    rw [ih]
    rfl

/-- What writing a register range leaves: the values written, and every other register as before. -/
theorem State.getV_setVs (bs : List Byte) (s : State) (first : Nat) (hf : first + bs.length ≤ 16) (y : Reg) :
    (s.setVs first bs).getV y =
      if first ≤ y.toNat ∧ y.toNat < first + bs.length then bs.getD (y.toNat - first) 0 else s.getV y := by
  induction bs generalizing s first with
  | nil =>
    simp only [setVs, List.length_nil]
    split_ifs with h
    · omega
    · rfl
  | cons b bs ih =>
    simp only [List.length_cons] at hf
    simp only [setVs, List.length_cons, ih (s.setV (BitVec.ofNat 4 first) b) (first + 1) (by omega),
      State.getV_setV]
    by_cases hk : y.toNat = first
    · have hy : y = BitVec.ofNat 4 first := by
        apply BitVec.eq_of_toNat_eq
        rw [BitVec.toNat_ofNat, hk, Nat.mod_eq_of_lt (by omega)]
      rw [if_neg (by omega), if_pos hy, if_pos (by omega), hk]
      simp
    · have hy : y ≠ BitVec.ofNat 4 first := by
        intro e
        apply hk
        rw [e, BitVec.toNat_ofNat, Nat.mod_eq_of_lt (by omega)]
      by_cases hr : first + 1 ≤ y.toNat ∧ y.toNat < first + 1 + bs.length
      · have hn : y.toNat - first = y.toNat - (first + 1) + 1 := by omega
        rw [if_pos hr, if_pos (by omega), hn]
        rfl
      · rw [if_neg hr, if_neg hy, if_neg (by omega)]

/-! ### The step -/

/-- One step of a live run is what the scheduler's choice does; an ended run has none. -/
theorem step_cases :
    (s.run = .running ∧ step s = takeEvent s.drawEvent.1 s.drawEvent.2) ∨
      (∃ x, s.run = .waitingForKey x ∧ step s = takeEvent s.drawEvent.1 s.drawEvent.2) ∨
      (∃ r, s.run = .halted r ∧ step s = .fault .runEnded) ∨
      (∃ f p w a, s.run = .faulted f p w a ∧ step s = .fault .runFaulted) := by
  unfold step
  cases s.run with
  | running => exact .inl ⟨rfl, rfl⟩
  | waitingForKey x => exact .inr (.inl ⟨x, rfl, rfl⟩)
  | halted r => exact .inr (.inr (.inl ⟨r, rfl, rfl⟩))
  | faulted f p w a => exact .inr (.inr (.inr ⟨f, p, w, a, rfl, rfl⟩))

end Sys2Proof.Machine
end

