-- ==== Sys2Proof/Laws/Fields.lean ====
section
/-! SUPPORT. What the composite operations leave alone, one lemma per field, from the one lemma of each that says
what it changes. -/

namespace Sys2Proof.Machine

variable (s : State)

/-! ### `State.drawRandom` -/

@[simp] theorem State.drawRandom_v : s.drawRandom.2.v = s.v := (congrArg State.v (s.drawRandom_eq)).trans rfl
@[simp] theorem State.drawRandom_i : s.drawRandom.2.i = s.i := (congrArg State.i (s.drawRandom_eq)).trans rfl
@[simp] theorem State.drawRandom_pc : s.drawRandom.2.pc = s.pc := (congrArg State.pc (s.drawRandom_eq)).trans rfl
@[simp] theorem State.drawRandom_sp : s.drawRandom.2.sp = s.sp := (congrArg State.sp (s.drawRandom_eq)).trans rfl
@[simp] theorem State.drawRandom_stack : s.drawRandom.2.stack = s.stack := (congrArg State.stack (s.drawRandom_eq)).trans rfl
@[simp] theorem State.drawRandom_dt : s.drawRandom.2.dt = s.dt := (congrArg State.dt (s.drawRandom_eq)).trans rfl
@[simp] theorem State.drawRandom_st : s.drawRandom.2.st = s.st := (congrArg State.st (s.drawRandom_eq)).trans rfl
@[simp] theorem State.drawRandom_fb : s.drawRandom.2.fb = s.fb := (congrArg State.fb (s.drawRandom_eq)).trans rfl
@[simp] theorem State.drawRandom_mem : s.drawRandom.2.mem = s.mem := (congrArg State.mem (s.drawRandom_eq)).trans rfl
@[simp] theorem State.drawRandom_run : s.drawRandom.2.run = s.run := (congrArg State.run (s.drawRandom_eq)).trans rfl
@[simp] theorem State.drawRandom_diag : s.drawRandom.2.diag = s.diag := (congrArg State.diag (s.drawRandom_eq)).trans rfl
@[simp] theorem State.drawRandom_sound : s.drawRandom.2.sound = s.sound := (congrArg State.sound (s.drawRandom_eq)).trans rfl
@[simp] theorem State.drawRandom_shown : s.drawRandom.2.shown = s.shown := (congrArg State.shown (s.drawRandom_eq)).trans rfl
@[simp] theorem State.drawRandom_cfg : s.drawRandom.2.cfg = s.cfg := (congrArg State.cfg (s.drawRandom_eq)).trans rfl
@[simp] theorem State.getV_drawRandom (y : Reg) : s.drawRandom.2.getV y = s.getV y :=
  (congrArg (fun u => State.getV u y) (s.drawRandom_eq)).trans rfl
@[simp] theorem State.readByte_drawRandom (k : Nat) : s.drawRandom.2.readByte k = s.readByte k :=
  (congrArg (fun u => State.readByte u k) (s.drawRandom_eq)).trans rfl

/-! ### `State.drawKeys` -/

@[simp] theorem State.drawKeys_v : s.drawKeys.2.v = s.v := (congrArg State.v (s.drawKeys_eq)).trans rfl
@[simp] theorem State.drawKeys_i : s.drawKeys.2.i = s.i := (congrArg State.i (s.drawKeys_eq)).trans rfl
@[simp] theorem State.drawKeys_pc : s.drawKeys.2.pc = s.pc := (congrArg State.pc (s.drawKeys_eq)).trans rfl
@[simp] theorem State.drawKeys_sp : s.drawKeys.2.sp = s.sp := (congrArg State.sp (s.drawKeys_eq)).trans rfl
@[simp] theorem State.drawKeys_stack : s.drawKeys.2.stack = s.stack := (congrArg State.stack (s.drawKeys_eq)).trans rfl
@[simp] theorem State.drawKeys_dt : s.drawKeys.2.dt = s.dt := (congrArg State.dt (s.drawKeys_eq)).trans rfl
@[simp] theorem State.drawKeys_st : s.drawKeys.2.st = s.st := (congrArg State.st (s.drawKeys_eq)).trans rfl
@[simp] theorem State.drawKeys_fb : s.drawKeys.2.fb = s.fb := (congrArg State.fb (s.drawKeys_eq)).trans rfl
@[simp] theorem State.drawKeys_mem : s.drawKeys.2.mem = s.mem := (congrArg State.mem (s.drawKeys_eq)).trans rfl
@[simp] theorem State.drawKeys_run : s.drawKeys.2.run = s.run := (congrArg State.run (s.drawKeys_eq)).trans rfl
@[simp] theorem State.drawKeys_diag : s.drawKeys.2.diag = s.diag := (congrArg State.diag (s.drawKeys_eq)).trans rfl
@[simp] theorem State.drawKeys_sound : s.drawKeys.2.sound = s.sound := (congrArg State.sound (s.drawKeys_eq)).trans rfl
@[simp] theorem State.drawKeys_shown : s.drawKeys.2.shown = s.shown := (congrArg State.shown (s.drawKeys_eq)).trans rfl
@[simp] theorem State.drawKeys_cfg : s.drawKeys.2.cfg = s.cfg := (congrArg State.cfg (s.drawKeys_eq)).trans rfl
@[simp] theorem State.getV_drawKeys (y : Reg) : s.drawKeys.2.getV y = s.getV y :=
  (congrArg (fun u => State.getV u y) (s.drawKeys_eq)).trans rfl
@[simp] theorem State.readByte_drawKeys (k : Nat) : s.drawKeys.2.readByte k = s.readByte k :=
  (congrArg (fun u => State.readByte u k) (s.drawKeys_eq)).trans rfl

/-! ### `State.drawPortOk` -/

@[simp] theorem State.drawPortOk_v : s.drawPortOk.2.v = s.v := (congrArg State.v (s.drawPortOk_eq)).trans rfl
@[simp] theorem State.drawPortOk_i : s.drawPortOk.2.i = s.i := (congrArg State.i (s.drawPortOk_eq)).trans rfl
@[simp] theorem State.drawPortOk_pc : s.drawPortOk.2.pc = s.pc := (congrArg State.pc (s.drawPortOk_eq)).trans rfl
@[simp] theorem State.drawPortOk_sp : s.drawPortOk.2.sp = s.sp := (congrArg State.sp (s.drawPortOk_eq)).trans rfl
@[simp] theorem State.drawPortOk_stack : s.drawPortOk.2.stack = s.stack := (congrArg State.stack (s.drawPortOk_eq)).trans rfl
@[simp] theorem State.drawPortOk_dt : s.drawPortOk.2.dt = s.dt := (congrArg State.dt (s.drawPortOk_eq)).trans rfl
@[simp] theorem State.drawPortOk_st : s.drawPortOk.2.st = s.st := (congrArg State.st (s.drawPortOk_eq)).trans rfl
@[simp] theorem State.drawPortOk_fb : s.drawPortOk.2.fb = s.fb := (congrArg State.fb (s.drawPortOk_eq)).trans rfl
@[simp] theorem State.drawPortOk_mem : s.drawPortOk.2.mem = s.mem := (congrArg State.mem (s.drawPortOk_eq)).trans rfl
@[simp] theorem State.drawPortOk_run : s.drawPortOk.2.run = s.run := (congrArg State.run (s.drawPortOk_eq)).trans rfl
@[simp] theorem State.drawPortOk_diag : s.drawPortOk.2.diag = s.diag := (congrArg State.diag (s.drawPortOk_eq)).trans rfl
@[simp] theorem State.drawPortOk_sound : s.drawPortOk.2.sound = s.sound := (congrArg State.sound (s.drawPortOk_eq)).trans rfl
@[simp] theorem State.drawPortOk_shown : s.drawPortOk.2.shown = s.shown := (congrArg State.shown (s.drawPortOk_eq)).trans rfl
@[simp] theorem State.drawPortOk_cfg : s.drawPortOk.2.cfg = s.cfg := (congrArg State.cfg (s.drawPortOk_eq)).trans rfl
@[simp] theorem State.getV_drawPortOk (y : Reg) : s.drawPortOk.2.getV y = s.getV y :=
  (congrArg (fun u => State.getV u y) (s.drawPortOk_eq)).trans rfl
@[simp] theorem State.readByte_drawPortOk (k : Nat) : s.drawPortOk.2.readByte k = s.readByte k :=
  (congrArg (fun u => State.readByte u k) (s.drawPortOk_eq)).trans rfl

/-! ### `State.drawEvent` -/

@[simp] theorem State.drawEvent_v : s.drawEvent.2.v = s.v := (congrArg State.v (s.drawEvent_eq)).trans rfl
@[simp] theorem State.drawEvent_i : s.drawEvent.2.i = s.i := (congrArg State.i (s.drawEvent_eq)).trans rfl
@[simp] theorem State.drawEvent_pc : s.drawEvent.2.pc = s.pc := (congrArg State.pc (s.drawEvent_eq)).trans rfl
@[simp] theorem State.drawEvent_sp : s.drawEvent.2.sp = s.sp := (congrArg State.sp (s.drawEvent_eq)).trans rfl
@[simp] theorem State.drawEvent_stack : s.drawEvent.2.stack = s.stack := (congrArg State.stack (s.drawEvent_eq)).trans rfl
@[simp] theorem State.drawEvent_dt : s.drawEvent.2.dt = s.dt := (congrArg State.dt (s.drawEvent_eq)).trans rfl
@[simp] theorem State.drawEvent_st : s.drawEvent.2.st = s.st := (congrArg State.st (s.drawEvent_eq)).trans rfl
@[simp] theorem State.drawEvent_fb : s.drawEvent.2.fb = s.fb := (congrArg State.fb (s.drawEvent_eq)).trans rfl
@[simp] theorem State.drawEvent_mem : s.drawEvent.2.mem = s.mem := (congrArg State.mem (s.drawEvent_eq)).trans rfl
@[simp] theorem State.drawEvent_run : s.drawEvent.2.run = s.run := (congrArg State.run (s.drawEvent_eq)).trans rfl
@[simp] theorem State.drawEvent_diag : s.drawEvent.2.diag = s.diag := (congrArg State.diag (s.drawEvent_eq)).trans rfl
@[simp] theorem State.drawEvent_sound : s.drawEvent.2.sound = s.sound := (congrArg State.sound (s.drawEvent_eq)).trans rfl
@[simp] theorem State.drawEvent_shown : s.drawEvent.2.shown = s.shown := (congrArg State.shown (s.drawEvent_eq)).trans rfl
@[simp] theorem State.drawEvent_cfg : s.drawEvent.2.cfg = s.cfg := (congrArg State.cfg (s.drawEvent_eq)).trans rfl
@[simp] theorem State.getV_drawEvent (y : Reg) : s.drawEvent.2.getV y = s.getV y :=
  (congrArg (fun u => State.getV u y) (s.drawEvent_eq)).trans rfl
@[simp] theorem State.readByte_drawEvent (k : Nat) : s.drawEvent.2.readByte k = s.readByte k :=
  (congrArg (fun u => State.readByte u k) (s.drawEvent_eq)).trans rfl

/-! ### `State.setFlag` -/

@[simp] theorem State.setFlag_i (b : Bool) : (s.setFlag b).i = s.i := rfl
@[simp] theorem State.setFlag_pc (b : Bool) : (s.setFlag b).pc = s.pc := rfl
@[simp] theorem State.setFlag_sp (b : Bool) : (s.setFlag b).sp = s.sp := rfl
@[simp] theorem State.setFlag_stack (b : Bool) : (s.setFlag b).stack = s.stack := rfl
@[simp] theorem State.setFlag_dt (b : Bool) : (s.setFlag b).dt = s.dt := rfl
@[simp] theorem State.setFlag_st (b : Bool) : (s.setFlag b).st = s.st := rfl
@[simp] theorem State.setFlag_fb (b : Bool) : (s.setFlag b).fb = s.fb := rfl
@[simp] theorem State.setFlag_mem (b : Bool) : (s.setFlag b).mem = s.mem := rfl
@[simp] theorem State.setFlag_run (b : Bool) : (s.setFlag b).run = s.run := rfl
@[simp] theorem State.setFlag_diag (b : Bool) : (s.setFlag b).diag = s.diag := rfl
@[simp] theorem State.setFlag_sound (b : Bool) : (s.setFlag b).sound = s.sound := rfl
@[simp] theorem State.setFlag_shown (b : Bool) : (s.setFlag b).shown = s.shown := rfl
@[simp] theorem State.setFlag_cfg (b : Bool) : (s.setFlag b).cfg = s.cfg := rfl
@[simp] theorem State.setFlag_host (b : Bool) : (s.setFlag b).host = s.host := rfl
@[simp] theorem State.readByte_setFlag (b : Bool) (k : Nat) : (s.setFlag b).readByte k = s.readByte k :=
  rfl

/-! ### `State.updateI` -/

@[simp] theorem State.updateI_v (x : Reg) : (s.updateI x).v = s.v := (congrArg State.v (s.updateI_eq x)).trans rfl
@[simp] theorem State.updateI_pc (x : Reg) : (s.updateI x).pc = s.pc := (congrArg State.pc (s.updateI_eq x)).trans rfl
@[simp] theorem State.updateI_sp (x : Reg) : (s.updateI x).sp = s.sp := (congrArg State.sp (s.updateI_eq x)).trans rfl
@[simp] theorem State.updateI_stack (x : Reg) : (s.updateI x).stack = s.stack := (congrArg State.stack (s.updateI_eq x)).trans rfl
@[simp] theorem State.updateI_dt (x : Reg) : (s.updateI x).dt = s.dt := (congrArg State.dt (s.updateI_eq x)).trans rfl
@[simp] theorem State.updateI_st (x : Reg) : (s.updateI x).st = s.st := (congrArg State.st (s.updateI_eq x)).trans rfl
@[simp] theorem State.updateI_fb (x : Reg) : (s.updateI x).fb = s.fb := (congrArg State.fb (s.updateI_eq x)).trans rfl
@[simp] theorem State.updateI_mem (x : Reg) : (s.updateI x).mem = s.mem := (congrArg State.mem (s.updateI_eq x)).trans rfl
@[simp] theorem State.updateI_run (x : Reg) : (s.updateI x).run = s.run := (congrArg State.run (s.updateI_eq x)).trans rfl
@[simp] theorem State.updateI_diag (x : Reg) : (s.updateI x).diag = s.diag := (congrArg State.diag (s.updateI_eq x)).trans rfl
@[simp] theorem State.updateI_sound (x : Reg) : (s.updateI x).sound = s.sound := (congrArg State.sound (s.updateI_eq x)).trans rfl
@[simp] theorem State.updateI_shown (x : Reg) : (s.updateI x).shown = s.shown := (congrArg State.shown (s.updateI_eq x)).trans rfl
@[simp] theorem State.updateI_cfg (x : Reg) : (s.updateI x).cfg = s.cfg := (congrArg State.cfg (s.updateI_eq x)).trans rfl
@[simp] theorem State.updateI_host (x : Reg) : (s.updateI x).host = s.host := (congrArg State.host (s.updateI_eq x)).trans rfl
@[simp] theorem State.getV_updateI (x : Reg) (y : Reg) : (s.updateI x).getV y = s.getV y :=
  (congrArg (fun u => State.getV u y) (s.updateI_eq x)).trans rfl
@[simp] theorem State.readByte_updateI (x : Reg) (k : Nat) : (s.updateI x).readByte k = s.readByte k :=
  (congrArg (fun u => State.readByte u k) (s.updateI_eq x)).trans rfl

/-! ### `State.writeBytes` -/

@[simp] theorem State.writeBytes_v (a : Nat) (bs : List Byte) : (s.writeBytes a bs).v = s.v := (congrArg State.v (State.writeBytes_eq bs s a)).trans rfl
@[simp] theorem State.writeBytes_i (a : Nat) (bs : List Byte) : (s.writeBytes a bs).i = s.i := (congrArg State.i (State.writeBytes_eq bs s a)).trans rfl
@[simp] theorem State.writeBytes_pc (a : Nat) (bs : List Byte) : (s.writeBytes a bs).pc = s.pc := (congrArg State.pc (State.writeBytes_eq bs s a)).trans rfl
@[simp] theorem State.writeBytes_sp (a : Nat) (bs : List Byte) : (s.writeBytes a bs).sp = s.sp := (congrArg State.sp (State.writeBytes_eq bs s a)).trans rfl
@[simp] theorem State.writeBytes_stack (a : Nat) (bs : List Byte) : (s.writeBytes a bs).stack = s.stack := (congrArg State.stack (State.writeBytes_eq bs s a)).trans rfl
@[simp] theorem State.writeBytes_dt (a : Nat) (bs : List Byte) : (s.writeBytes a bs).dt = s.dt := (congrArg State.dt (State.writeBytes_eq bs s a)).trans rfl
@[simp] theorem State.writeBytes_st (a : Nat) (bs : List Byte) : (s.writeBytes a bs).st = s.st := (congrArg State.st (State.writeBytes_eq bs s a)).trans rfl
@[simp] theorem State.writeBytes_fb (a : Nat) (bs : List Byte) : (s.writeBytes a bs).fb = s.fb := (congrArg State.fb (State.writeBytes_eq bs s a)).trans rfl
@[simp] theorem State.writeBytes_run (a : Nat) (bs : List Byte) : (s.writeBytes a bs).run = s.run := (congrArg State.run (State.writeBytes_eq bs s a)).trans rfl
@[simp] theorem State.writeBytes_diag (a : Nat) (bs : List Byte) : (s.writeBytes a bs).diag = s.diag := (congrArg State.diag (State.writeBytes_eq bs s a)).trans rfl
@[simp] theorem State.writeBytes_sound (a : Nat) (bs : List Byte) : (s.writeBytes a bs).sound = s.sound := (congrArg State.sound (State.writeBytes_eq bs s a)).trans rfl
@[simp] theorem State.writeBytes_shown (a : Nat) (bs : List Byte) : (s.writeBytes a bs).shown = s.shown := (congrArg State.shown (State.writeBytes_eq bs s a)).trans rfl
@[simp] theorem State.writeBytes_cfg (a : Nat) (bs : List Byte) : (s.writeBytes a bs).cfg = s.cfg := (congrArg State.cfg (State.writeBytes_eq bs s a)).trans rfl
@[simp] theorem State.writeBytes_host (a : Nat) (bs : List Byte) : (s.writeBytes a bs).host = s.host := (congrArg State.host (State.writeBytes_eq bs s a)).trans rfl
@[simp] theorem State.getV_writeBytes (a : Nat) (bs : List Byte) (y : Reg) : (s.writeBytes a bs).getV y = s.getV y :=
  (congrArg (fun u => State.getV u y) (State.writeBytes_eq bs s a)).trans rfl

/-! ### `State.setVs` -/

@[simp] theorem State.setVs_i (a : Nat) (bs : List Byte) : (s.setVs a bs).i = s.i := (congrArg State.i (State.setVs_eq bs s a)).trans rfl
@[simp] theorem State.setVs_pc (a : Nat) (bs : List Byte) : (s.setVs a bs).pc = s.pc := (congrArg State.pc (State.setVs_eq bs s a)).trans rfl
@[simp] theorem State.setVs_sp (a : Nat) (bs : List Byte) : (s.setVs a bs).sp = s.sp := (congrArg State.sp (State.setVs_eq bs s a)).trans rfl
@[simp] theorem State.setVs_stack (a : Nat) (bs : List Byte) : (s.setVs a bs).stack = s.stack := (congrArg State.stack (State.setVs_eq bs s a)).trans rfl
@[simp] theorem State.setVs_dt (a : Nat) (bs : List Byte) : (s.setVs a bs).dt = s.dt := (congrArg State.dt (State.setVs_eq bs s a)).trans rfl
@[simp] theorem State.setVs_st (a : Nat) (bs : List Byte) : (s.setVs a bs).st = s.st := (congrArg State.st (State.setVs_eq bs s a)).trans rfl
@[simp] theorem State.setVs_fb (a : Nat) (bs : List Byte) : (s.setVs a bs).fb = s.fb := (congrArg State.fb (State.setVs_eq bs s a)).trans rfl
@[simp] theorem State.setVs_mem (a : Nat) (bs : List Byte) : (s.setVs a bs).mem = s.mem := (congrArg State.mem (State.setVs_eq bs s a)).trans rfl
@[simp] theorem State.setVs_run (a : Nat) (bs : List Byte) : (s.setVs a bs).run = s.run := (congrArg State.run (State.setVs_eq bs s a)).trans rfl
@[simp] theorem State.setVs_diag (a : Nat) (bs : List Byte) : (s.setVs a bs).diag = s.diag := (congrArg State.diag (State.setVs_eq bs s a)).trans rfl
@[simp] theorem State.setVs_sound (a : Nat) (bs : List Byte) : (s.setVs a bs).sound = s.sound := (congrArg State.sound (State.setVs_eq bs s a)).trans rfl
@[simp] theorem State.setVs_shown (a : Nat) (bs : List Byte) : (s.setVs a bs).shown = s.shown := (congrArg State.shown (State.setVs_eq bs s a)).trans rfl
@[simp] theorem State.setVs_cfg (a : Nat) (bs : List Byte) : (s.setVs a bs).cfg = s.cfg := (congrArg State.cfg (State.setVs_eq bs s a)).trans rfl
@[simp] theorem State.setVs_host (a : Nat) (bs : List Byte) : (s.setVs a bs).host = s.host := (congrArg State.host (State.setVs_eq bs s a)).trans rfl
@[simp] theorem State.readByte_setVs (a : Nat) (bs : List Byte) (k : Nat) : (s.setVs a bs).readByte k = s.readByte k :=
  (congrArg (fun u => State.readByte u k) (State.setVs_eq bs s a)).trans rfl

end Sys2Proof.Machine
end

