-- ==== Sys2Proof/Laws/PerInstr.lean ====
section
/-! SUPPORT. The per-instruction family `EncodedByRow`: the word of an instruction matches its row of
opcode_table.json, that is the row's `match` under the row's `mask` (30_encoding.md R74). -/

namespace Sys2Proof.Laws.EncodedByRow

/-- The `match` and `mask` of an instruction's row in opcode_table.json. -/
def row : Instr → Word × Word
  | .halt => (0x0000, 0xFFFF)
  | .cls => (0x00E0, 0xFFFF)
  | .ret => (0x00EE, 0xFFFF)
  | .jp _ => (0x1000, 0xF000)
  | .call _ => (0x2000, 0xF000)
  | .seImm _ _ => (0x3000, 0xF000)
  | .sneImm _ _ => (0x4000, 0xF000)
  | .seReg _ _ => (0x5000, 0xF00F)
  | .ldImm _ _ => (0x6000, 0xF000)
  | .addImm _ _ => (0x7000, 0xF000)
  | .ldReg _ _ => (0x8000, 0xF00F)
  | .or _ _ => (0x8001, 0xF00F)
  | .and _ _ => (0x8002, 0xF00F)
  | .xor _ _ => (0x8003, 0xF00F)
  | .addReg _ _ => (0x8004, 0xF00F)
  | .sub _ _ => (0x8005, 0xF00F)
  | .shr _ _ => (0x8006, 0xF00F)
  | .subn _ _ => (0x8007, 0xF00F)
  | .shl _ _ => (0x800E, 0xF00F)
  | .sneReg _ _ => (0x9000, 0xF00F)
  | .ldI _ => (0xA000, 0xF000)
  | .jpV0 _ => (0xB000, 0xF000)
  | .rnd _ _ => (0xC000, 0xF000)
  | .drw _ _ _ => (0xD000, 0xF000)
  | .skp _ => (0xE09E, 0xF0FF)
  | .sknp _ => (0xE0A1, 0xF0FF)
  | .ldVxDt _ => (0xF007, 0xF0FF)
  | .ldVxK _ => (0xF00A, 0xF0FF)
  | .ldDt _ => (0xF015, 0xF0FF)
  | .ldSt _ => (0xF018, 0xF0FF)
  | .addI _ => (0xF01E, 0xF0FF)
  | .ldF _ => (0xF029, 0xF0FF)
  | .ldB _ => (0xF033, 0xF0FF)
  | .saveReg _ => (0xF055, 0xF0FF)
  | .loadReg _ => (0xF065, 0xF0FF)

/-- The word of the instruction lies in its row. -/
def Statement (i : Instr) : Prop := encode i &&& (row i).2 = (row i).1

theorem encodeXNN_row (op : Nibble) (x : Reg) (nn : Byte) : encodeXNN op x nn &&& 0xF000 = encodeXNN op 0 0 := by
  simp only [encodeXNN]
  apply BitVec.eq_of_getLsbD_eq
  intro k hk
  simp only [BitVec.getLsbD_and, BitVec.getLsbD_append]
  interval_cases k <;> simp

theorem encodeXNN_rowF (op : Nibble) (x : Reg) (nn : Byte) : encodeXNN op x nn &&& 0xF0FF = encodeXNN op 0 nn := by
  simp only [encodeXNN]
  apply BitVec.eq_of_getLsbD_eq
  intro k hk
  simp only [BitVec.getLsbD_and, BitVec.getLsbD_append]
  interval_cases k <;> simp

theorem encodeNNN_row (op : Nibble) (nnn : Addr12) : encodeNNN op nnn &&& 0xF000 = encodeNNN op 0 := by
  simp only [encodeNNN]
  apply BitVec.eq_of_getLsbD_eq
  intro k hk
  simp only [BitVec.getLsbD_and, BitVec.getLsbD_append]
  interval_cases k <;> simp

theorem encodeXYN_row (op : Nibble) (x y : Reg) (n : Nibble) : encodeXYN op x y n &&& 0xF00F = encodeXYN op 0 0 n := by
  simp only [encodeXYN]
  apply BitVec.eq_of_getLsbD_eq
  intro k hk
  simp only [BitVec.getLsbD_and, BitVec.getLsbD_append]
  interval_cases k <;> simp

theorem encodeXYN_rowD (op : Nibble) (x y : Reg) (n : Nibble) : encodeXYN op x y n &&& 0xF000 = encodeXYN op 0 0 0 := by
  simp only [encodeXYN]
  apply BitVec.eq_of_getLsbD_eq
  intro k hk
  simp only [BitVec.getLsbD_and, BitVec.getLsbD_append]
  interval_cases k <;> simp

theorem halt : Statement .halt := rfl
theorem cls : Statement .cls := rfl
theorem ret : Statement .ret := rfl
theorem jp (nnn : Addr12) : Statement (.jp nnn) := encodeNNN_row 0x1 nnn
theorem call (nnn : Addr12) : Statement (.call nnn) := encodeNNN_row 0x2 nnn
theorem seImm (x : Reg) (nn : Byte) : Statement (.seImm x nn) := encodeXNN_row 0x3 x nn
theorem sneImm (x : Reg) (nn : Byte) : Statement (.sneImm x nn) := encodeXNN_row 0x4 x nn
theorem seReg (x y : Reg) : Statement (.seReg x y) := encodeXYN_row 0x5 x y 0x0
theorem ldImm (x : Reg) (nn : Byte) : Statement (.ldImm x nn) := encodeXNN_row 0x6 x nn
theorem addImm (x : Reg) (nn : Byte) : Statement (.addImm x nn) := encodeXNN_row 0x7 x nn
theorem ldReg (x y : Reg) : Statement (.ldReg x y) := encodeXYN_row 0x8 x y 0x0
theorem or (x y : Reg) : Statement (.or x y) := encodeXYN_row 0x8 x y 0x1
theorem and (x y : Reg) : Statement (.and x y) := encodeXYN_row 0x8 x y 0x2
theorem xor (x y : Reg) : Statement (.xor x y) := encodeXYN_row 0x8 x y 0x3
theorem addReg (x y : Reg) : Statement (.addReg x y) := encodeXYN_row 0x8 x y 0x4
theorem sub (x y : Reg) : Statement (.sub x y) := encodeXYN_row 0x8 x y 0x5
theorem shr (x y : Reg) : Statement (.shr x y) := encodeXYN_row 0x8 x y 0x6
theorem subn (x y : Reg) : Statement (.subn x y) := encodeXYN_row 0x8 x y 0x7
theorem shl (x y : Reg) : Statement (.shl x y) := encodeXYN_row 0x8 x y 0xE
theorem sneReg (x y : Reg) : Statement (.sneReg x y) := encodeXYN_row 0x9 x y 0x0
theorem ldI (nnn : Addr12) : Statement (.ldI nnn) := encodeNNN_row 0xA nnn
theorem jpV0 (nnn : Addr12) : Statement (.jpV0 nnn) := encodeNNN_row 0xB nnn
theorem rnd (x : Reg) (nn : Byte) : Statement (.rnd x nn) := encodeXNN_row 0xC x nn
theorem drw (x y : Reg) (n : Nibble) : Statement (.drw x y n) := encodeXYN_rowD 0xD x y n
theorem skp (x : Reg) : Statement (.skp x) := encodeXNN_rowF 0xE x 0x9E
theorem sknp (x : Reg) : Statement (.sknp x) := encodeXNN_rowF 0xE x 0xA1
theorem ldVxDt (x : Reg) : Statement (.ldVxDt x) := encodeXNN_rowF 0xF x 0x07
theorem ldVxK (x : Reg) : Statement (.ldVxK x) := encodeXNN_rowF 0xF x 0x0A
theorem ldDt (x : Reg) : Statement (.ldDt x) := encodeXNN_rowF 0xF x 0x15
theorem ldSt (x : Reg) : Statement (.ldSt x) := encodeXNN_rowF 0xF x 0x18
theorem addI (x : Reg) : Statement (.addI x) := encodeXNN_rowF 0xF x 0x1E
theorem ldF (x : Reg) : Statement (.ldF x) := encodeXNN_rowF 0xF x 0x29
theorem ldB (x : Reg) : Statement (.ldB x) := encodeXNN_rowF 0xF x 0x33
theorem saveReg (x : Reg) : Statement (.saveReg x) := encodeXNN_rowF 0xF x 0x55
theorem loadReg (x : Reg) : Statement (.loadReg x) := encodeXNN_rowF 0xF x 0x65

end Sys2Proof.Laws.EncodedByRow
end

