-- ==== Sys2Proof/Laws/Step.lean ====
section
/-! SUPPORT. What a step can do, said once: the event it takes, the Core's iteration, and what each of the other steps
changes. -/

namespace Sys2Proof.Machine

variable {s t : State}

@[simp] theorem State.fetch_setHost (s : State) (h : HostInputs) : (s.setHost h).fetch = s.fetch := rfl

@[simp] theorem State.fetch_drawEvent (s : State) : s.drawEvent.2.fetch = s.fetch := by
  rw [s.drawEvent_eq, State.fetch_setHost]

/-- A live state takes its next event. -/
theorem step_of_live (h : s.live) : step s = takeEvent s.drawEvent.1 s.drawEvent.2 := by
  rcases step_cases s with ⟨-, e⟩ | ⟨-, -, e⟩ | ⟨r, hr, -⟩ | ⟨f, p, w, a, hr, -⟩
  · exact e
  · exact e
  · simp [State.live, hr] at h
  · simp [State.live, hr] at h

/-- A state that has a step is live, and the step is its event's. -/
theorem step_next (h : step s = .next t) : s.live ∧ takeEvent s.drawEvent.1 s.drawEvent.2 = .next t := by
  rcases step_cases s with ⟨hr, e⟩ | ⟨x, hr, e⟩ | ⟨r, -, e⟩ | ⟨f, p, w, a, -, e⟩
  · exact ⟨.inl hr, e.symm.trans h⟩
  · exact ⟨.inr ⟨x, hr⟩, e.symm.trans h⟩
  · simp [e] at h
  · simp [e] at h

/-- An iteration faults in the fetch, or runs an invalid word, or runs the one instruction of its word. -/
theorem coreIteration_cases (h : coreIteration s = .next t) :
    (∃ a, t = s.raise .addressOutOfRange none (some a)) ∨
      (∃ w e, s.fetch = .ok w ∧ decode s.cfg.haltOnZero w = .error e ∧ t = invalidWord w s) ∨
      ∃ w i, s.fetch = .ok w ∧ decode s.cfg.haltOnZero w = .ok i ∧ exec i s = .next t := by
  unfold coreIteration at h
  split at h
  · injection h with h
    exact .inl ⟨_, h.symm⟩
  · next w hf =>
    split at h
    · next i hd => exact .inr (.inr ⟨w, i, hf, hd, h⟩)
    · next e hd =>
      injection h with h
      exact .inr (.inl ⟨w, e, hf, hd, h.symm⟩)

/-- A step is an iteration of the Core, or it is one of the others, each from a live state. -/
theorem step_inversion (h : step s = .next t) :
    (s.run = .running ∧ s.drawEvent.1 = .core ∧ coreIteration s.drawEvent.2 = .next t) ∨
      (s.live ∧
        ((s.drawEvent.1 = .core ∧ t = s.drawEvent.2) ∨ (s.drawEvent.1 = .tickDT ∧ t = tickDT s.drawEvent.2) ∨
          (s.drawEvent.1 = .tickST ∧ t = tickST s.drawEvent.2) ∨
          (s.drawEvent.1 = .cancel ∧ t = cancelRun s.drawEvent.2) ∨
          (∃ k, s.drawEvent.1 = .keyDown k ∧ t = keyDownEvent k s.drawEvent.2) ∨
          (s.drawEvent.1 = .pollFail ∧ t = pollFailEvent s.drawEvent.2))) := by
  obtain ⟨hl, h⟩ := step_next h
  cases he : s.drawEvent.1 with
  | core =>
    rw [he] at h
    simp only [takeEvent, coreTurn] at h
    split at h
    · next hr => exact .inl ⟨by simpa using hr, rfl, h⟩
    · injection h with h
      exact .inr ⟨hl, .inl ⟨rfl, h.symm⟩⟩
  | tickDT | tickST | cancel | keyDown _ | pollFail =>
    rw [he] at h
    injection h with h
    simp [hl, ← h]

/-- `TickDT` changes DT alone, by one, down to 0. -/
theorem tickDT_eq (s : State) : ∃ d, tickDT s = s.setDt d ∧ d.toNat = s.dt.toNat - 1 := by
  unfold tickDT
  split_ifs with h
  · have hle : (1 : Byte) ≤ s.dt := by
      rw [BitVec.le_def]
      exact h
    exact ⟨s.dt - 1, rfl, by rw [BitVec.toNat_sub_of_le hle]; rfl⟩
  · exact ⟨s.dt, rfl, by omega⟩

/-- `TickST` changes ST, by one, down to 0; the SoundPort's calls; the host inputs; and `run`, only by the failure of
its port. -/
theorem tickST_eq (s : State) :
    ∃ b c h r, tickST s = { s with st := b, sound := c, host := h, run := r } ∧ b.toNat = s.st.toNat - 1 ∧
      (r = s.run ∨ r = .faulted .soundPortFailure s.pc none none) := by
  unfold tickST
  split_ifs with h
  · have hle : (1 : Byte) ≤ s.st := by
      rw [BitVec.le_def]
      exact h
    have hb : (s.st - 1).toNat = s.st.toNat - 1 := by
      rw [BitVec.toNat_sub_of_le hle]
      rfl
    have e := s.writeSt_eq (s.st - 1)
    generalize s.writeSt (s.st - 1) = w at e ⊢
    obtain ⟨ok, u⟩ := w
    simp only at e
    cases ok
    · exact ⟨s.st - 1, u.sound, u.host, _, by simp only; rw [e]; rfl, hb, .inr rfl⟩
    · exact ⟨s.st - 1, u.sound, u.host, _, by simp only; rw [e], hb, .inl rfl⟩
  · exact ⟨s.st, s.sound, s.host, s.run, rfl, by omega, .inl rfl⟩

/-- A key-down event changes nothing, or ends the wait. -/
theorem keyDownEvent_cases (k : Nibble) (s : State) :
    (keyDownEvent k s = s ∧ ∀ x, s.run ≠ .waitingForKey x) ∨
      ∃ x, s.run = .waitingForKey x ∧
        keyDownEvent k s = ((s.setV x (k.setWidth 8)).setRun .running).advance 2 := by
  unfold keyDownEvent
  split
  · next x h => exact .inr ⟨x, h, rfl⟩
  · next h => exact .inl ⟨rfl, h⟩

/-- A failed poll changes nothing, or faults the wait. -/
theorem pollFailEvent_cases (s : State) :
    (pollFailEvent s = s ∧ ∀ x, s.run ≠ .waitingForKey x) ∨
      ∃ x, s.run = .waitingForKey x ∧
        pollFailEvent s = s.raise .inputPortFailure (some (encode (.ldVxK x))) none := by
  unfold pollFailEvent
  split
  · next x h => exact .inr ⟨x, h, rfl⟩
  · next h => exact .inl ⟨rfl, h⟩

/-- The rest of a run is a run. -/
theorem IsRun.drop {r : Nat → State} (h : IsRun r) (k : Nat) : IsRun (fun n => r (k + n)) := fun n => h (k + n)

/-- Every state of a run is live. -/
theorem IsRun.live {r : Nat → State} (h : IsRun r) (n : Nat) : (r n).live := by
  obtain ⟨t, _, hs, -⟩ := h n
  exact (step_next hs).1

end Sys2Proof.Machine
end

