-- ==== Sys2Proof/Tests/Slice0.lean ====
section
/-! SUPPORT. Tests on fixed values, each one step or one operation on a small state. The expected results are the
spec's: the words of 30_encoding.md R74 and R76, and the vectors of 95_test_vectors.md, named by their table. The
witnesses at the end show, for every statement with hypotheses, a state and operands that meet them. -/

set_option maxRecDepth 20000

namespace Sys2Proof.Tests

open Sys2Proof Sys2Proof.Machine

/-- The start state of the vectors: reset, every port call succeeds, no key is pressed. -/
def start : State :=
  State.reset.setHost { HostInputs.none with portOks := List.replicate 20 true, keys := [0, 0] }

/-- The start state under another configuration. -/
def startWith (c : Config) : State := (State.resetWith c).setHost start.host

/-- The start state with the next port call failing. -/
def failing : State := start.setHost { start.host with portOks := [false] }

/-- The start state with the given host inputs pending. -/
def withEvents (s : State) (es : List Event) : State := s.setHost { s.host with events := es }

/-- Sixteen full stack slots. -/
def fullStack : State := start.setStack 16 (Vector.replicate 16 0x200)

/-- One byte written. -/
def poke (s : State) (a : Nat) (b : Byte) : State := s.writeByte a b

/-- The next state of the machine, if there is one. -/
def after (s : State) : Option State :=
  match step s with
  | .next t => some t
  | _ => none

/-- The next state when the word at PC is `w` and the Core is next. -/
def runWord (w : Nat) (s : State) : Option State := after (s.withFetchWord 16 w)

/-- The pixels of row `y` from column 0 on. -/
def row (f : Framebuffer) (y count : Nat) : List Bool := (List.range count).map fun x => pixel f x y

/-! ### WellFormed -/

/-- The one check: HALT exists only under `HALT_ON_ZERO` (R74). -/
theorem test_wellFormed_refuses_halt :
    Instr.halt.wellFormed { Config.default with haltOnZero := false } = false ∧
      Instr.halt.wellFormed Config.default = true := by decide

/-! ### Decode: every constructor, by a word written from the spec's pattern -/

theorem test_decode_system :
    decode true (0b0000#4 ++ 0b0000#4 ++ 0b0000#4 ++ 0b0000#4) = .ok .halt ∧
      decode true (0b0000#4 ++ 0b0000#4 ++ 0b1110#4 ++ 0b0000#4) = .ok .cls ∧
      decode true (0b0000#4 ++ 0b0000#4 ++ 0b1110#4 ++ 0b1110#4) = .ok .ret ∧
      decode false 0x0000 = .error .group0 := by decide

theorem test_decode_jumps :
    decode true (0b0001#4 ++ 0b0010#4 ++ 0b0011#4 ++ 0b0100#4) = .ok (.jp 0x234) ∧
      decode true (0b0010#4 ++ 0b0011#4 ++ 0b0000#4 ++ 0b0001#4) = .ok (.call 0x301) ∧
      decode true (0b1011#4 ++ 0b0011#4 ++ 0b0001#4 ++ 0b0010#4) = .ok (.jpV0 0x312) := by decide

theorem test_decode_skips :
    decode true (0b0011#4 ++ 0b0010#4 ++ 0b00101010#8) = .ok (.seImm 2 0x2A) ∧
      decode true (0b0100#4 ++ 0b0010#4 ++ 0b00101010#8) = .ok (.sneImm 2 0x2A) ∧
      decode true (0b0101#4 ++ 0b0001#4 ++ 0b0010#4 ++ 0b0000#4) = .ok (.seReg 1 2) ∧
      decode true (0b1001#4 ++ 0b0001#4 ++ 0b0010#4 ++ 0b0000#4) = .ok (.sneReg 1 2) := by decide

theorem test_decode_loads :
    decode true (0b0110#4 ++ 0b0000#4 ++ 0b00000101#8) = .ok (.ldImm 0 5) ∧
      decode true (0b0111#4 ++ 0b0000#4 ++ 0b00000011#8) = .ok (.addImm 0 3) ∧
      decode true (0b1010#4 ++ 0b001011110000#12) = .ok (.ldI 0x2F0) ∧
      decode true (0b1100#4 ++ 0b0011#4 ++ 0b00001111#8) = .ok (.rnd 3 0x0F) ∧
      decode true (0b1101#4 ++ 0b0001#4 ++ 0b0010#4 ++ 0b0101#4) = .ok (.drw 1 2 5) := by decide

theorem test_decode_group8 :
    decode true (0b1000#4 ++ 0b0001#4 ++ 0b0010#4 ++ 0b0000#4) = .ok (.ldReg 1 2) ∧
      decode true (0b1000#4 ++ 0b0001#4 ++ 0b0010#4 ++ 0b0001#4) = .ok (.or 1 2) ∧
      decode true (0b1000#4 ++ 0b0001#4 ++ 0b0010#4 ++ 0b0010#4) = .ok (.and 1 2) ∧
      decode true (0b1000#4 ++ 0b0001#4 ++ 0b0010#4 ++ 0b0011#4) = .ok (.xor 1 2) ∧
      decode true (0b1000#4 ++ 0b0001#4 ++ 0b0010#4 ++ 0b0100#4) = .ok (.addReg 1 2) ∧
      decode true (0b1000#4 ++ 0b0001#4 ++ 0b0010#4 ++ 0b0101#4) = .ok (.sub 1 2) ∧
      decode true (0b1000#4 ++ 0b0001#4 ++ 0b0010#4 ++ 0b0110#4) = .ok (.shr 1 2) ∧
      decode true (0b1000#4 ++ 0b0001#4 ++ 0b0010#4 ++ 0b0111#4) = .ok (.subn 1 2) ∧
      decode true (0b1000#4 ++ 0b0001#4 ++ 0b0010#4 ++ 0b1110#4) = .ok (.shl 1 2) := by decide

theorem test_decode_groupE :
    decode true (0b1110#4 ++ 0b0001#4 ++ 0b1001#4 ++ 0b1110#4) = .ok (.skp 1) ∧
      decode true (0b1110#4 ++ 0b0001#4 ++ 0b1010#4 ++ 0b0001#4) = .ok (.sknp 1) := by decide

theorem test_decode_groupF :
    decode true (0b1111#4 ++ 0b0101#4 ++ 0b0000#4 ++ 0b0111#4) = .ok (.ldVxDt 5) ∧
      decode true (0b1111#4 ++ 0b0011#4 ++ 0b0000#4 ++ 0b1010#4) = .ok (.ldVxK 3) ∧
      decode true (0b1111#4 ++ 0b0101#4 ++ 0b0001#4 ++ 0b0101#4) = .ok (.ldDt 5) ∧
      decode true (0b1111#4 ++ 0b0101#4 ++ 0b0001#4 ++ 0b1000#4) = .ok (.ldSt 5) ∧
      decode true (0b1111#4 ++ 0b0101#4 ++ 0b0001#4 ++ 0b1110#4) = .ok (.addI 5) ∧
      decode true (0b1111#4 ++ 0b0101#4 ++ 0b0010#4 ++ 0b1001#4) = .ok (.ldF 5) ∧
      decode true (0b1111#4 ++ 0b0101#4 ++ 0b0011#4 ++ 0b0011#4) = .ok (.ldB 5) ∧
      decode true (0b1111#4 ++ 0b0101#4 ++ 0b0101#4 ++ 0b0101#4) = .ok (.saveReg 5) ∧
      decode true (0b1111#4 ++ 0b1111#4 ++ 0b0110#4 ++ 0b0101#4) = .ok (.loadReg 15) := by decide

/-- The invalid words of V1, and the edges of the six rows of R76. -/
theorem test_decode_invalid :
    decode true 0x00E1 = .error .group0 ∧ decode true 0x0123 = .error .group0 ∧
      decode true 0x0FFF = .error .group0 ∧ decode true 0x5011 = .error .group5 ∧
      decode true 0x8008 = .error .group8 ∧ decode true 0x800D = .error .group8 ∧
      decode true 0x800F = .error .group8 ∧ decode true 0x9011 = .error .group9 ∧
      decode true 0xE09F = .error .groupE ∧ decode true 0xF000 = .error .groupF ∧
      decode true 0xF0FF = .error .groupF := by decide

/-- The high byte comes first (R55); the rest of the stream is left. -/
theorem test_decode_bytes :
    decodeBytes true [0x12, 0x34, 0x56] = some (.ok (.jp 0x234), [0x56]) ∧ decodeBytes true [0x12] = none ∧
      decodeTableWord 16 0x1234 = some (.jp 0x234) ∧ decodeTableWord 16 0x5011 = none := by decide

/-! ### Memory and boot -/

/-- Reset contents: glyph 1 starts with 20, low memory past the font is 0 (V5). -/
theorem test_memory_reset : start.readByte 5 = 0x20 ∧ start.readByte 0x4F = 0x80 ∧ start.readByte 0x50 = 0 := by decide

/-- A write is read back; writing the reset contents again leaves equal memories equal. -/
theorem test_memory_write :
    (poke start 0x300 7).readByte 0x300 = 7 ∧ (poke start 0x300 7).readByte 0x301 = 0 ∧
      poke (poke start 0x300 7) 0x300 0 = start ∧ poke start 5 0x20 = start ∧
      poke (poke start 0x300 7) 0x200 9 = poke (poke start 0x200 9) 0x300 7 := by decide

theorem test_memory_wf :
    Memory.wf Config.default (poke (poke start 0x300 7) 0x200 9).mem = true ∧
      Memory.wf Config.default [(0x300, 7), (0x200, 9)] = false ∧ Memory.wf Config.default [(0x300, 0)] = false ∧
      Memory.wf Config.default [(4096, 1)] = false := by decide

/-- The 3-byte image of W10. -/
theorem test_boot_image :
    (boot Config.default [0x60, 0x05, 0x70]).map
      (fun s => (s.readByte 0x200, s.readByte 0x202, s.readByte 0x203, s.pc.toNat)) = some (0x60, 0x70, 0, 0x200) := by
  decide

/-! ### Fetch (V2) -/

theorem test_fetch_last_word :
    (runWord 0x6001 (start.setPc 0xFFE)).map (fun t => (t.getV 0, t.pc.toNat, t.run)) =
      some (1, 0x1000, .running) := by decide

theorem test_fetch_past_the_end :
    (after (withEvents (start.setPc 0xFFF) [.core])).map State.run =
        some (.faulted .addressOutOfRange 0xFFF none (some 0x1000)) ∧
      (after (withEvents (start.setPc 0x1002) [.core])).map State.run =
        some (.faulted .addressOutOfRange 0x1002 none (some 0x1002)) := by decide

theorem test_fetch_odd_pc :
    (runWord 0x6007 (start.setPc 0x201)).map (fun t => (t.getV 0, t.pc.toNat)) = some (7, 0x203) := by decide

/-! ### System -/

/-- P1 at 0x202, and P10 with `HALT_ON_ZERO` false. -/
theorem test_halt :
    (runWord 0x0000 (start.setPc 0x202)).map (fun t => (t.run, t.pc.toNat)) =
        some (.halted .haltSentinel, 0x202) ∧
      (runWord 0x0000 (startWith { Config.default with haltOnZero := false })).map (fun t => (t.run, t.pc.toNat, t.diag)) =
        some (.running, 0x202, [.invalidInstruction 0x200 0x0000]) := by decide

theorem test_invalid_word :
    (runWord 0x5011 start).map (fun t => (t.run, t.pc.toNat, t.diag)) =
      some (.running, 0x202, [.invalidInstruction 0x200 0x5011]) := by decide

/-! ### Control flow (V3) -/

theorem test_jp : (runWord 0x1FFF start).map (fun t => (t.pc.toNat, t.run)) = some (0xFFF, .running) := by decide

theorem test_jpV0 :
    (runWord 0xBFFF (start.setV 0 0xFF)).map (fun t => t.pc.toNat) = some 0x10FE ∧
      (runWord 0xB310 ((start.setV 0 4).setV 3 9)).map (fun t => t.pc.toNat) = some 0x314 := by decide

theorem test_jpV0_vx :
    (runWord 0xB310 ((startWith { Config.default with jumpOffsetReg := .vx }).setV 3 4)).map (fun t => t.pc.toNat) =
      some 0x314 := by decide

theorem test_call :
    (runWord 0x2300 start).map (fun t => (t.pc.toNat, t.sp, t.stack[0])) = some (0x300, 1, 0x200) := by decide

theorem test_call_full :
    (runWord 0x2300 fullStack).map (fun t => (t.run, t.sp, t.pc.toNat)) =
      some (.faulted .stackOverflow 0x200 (some 0x2300) (some 0x200), 16, 0x200) := by decide

theorem test_ret :
    (runWord 0x00EE (start.setStack 1 (Vector.replicate 16 0x200))).map (fun t => (t.pc.toNat, t.sp, t.stack[0])) =
      some (0x202, 0, 0x200) := by decide

theorem test_ret_empty :
    (runWord 0x00EE start).map State.run = some (.faulted .stackUnderflow 0x200 (some 0x00EE) (some 0x200)) := by
  decide

theorem test_seImm :
    (runWord 0x322A (start.setV 2 0x2A)).map (fun t => t.pc.toNat) = some 0x204 ∧
      (runWord 0x322A (start.setV 2 0x2B)).map (fun t => t.pc.toNat) = some 0x202 := by decide

theorem test_seImm_past_the_end :
    (runWord 0x3000 (start.setPc 0xFFE)).map (fun t => (t.pc.toNat, t.run)) = some (0x1002, .running) := by decide

theorem test_sneImm :
    (runWord 0x422A (start.setV 2 0x2A)).map (fun t => t.pc.toNat) = some 0x202 ∧
      (runWord 0x422A (start.setV 2 0x2B)).map (fun t => t.pc.toNat) = some 0x204 := by decide

theorem test_seReg :
    (runWord 0x5010 ((start.setV 0 5).setV 1 5)).map (fun t => t.pc.toNat) = some 0x204 ∧
      (runWord 0x5010 ((start.setV 0 5).setV 1 6)).map (fun t => t.pc.toNat) = some 0x202 := by decide

theorem test_sneReg :
    (runWord 0x9010 ((start.setV 0 1).setV 1 2)).map (fun t => t.pc.toNat) = some 0x204 ∧
      (runWord 0x9220 start).map (fun t => t.pc.toNat) = some 0x202 := by decide

/-! ### Arithmetic and logic (V4) -/

theorem test_addImm :
    (runWord 0x7001 (start.setV 0 0xFF)).map (fun t => (t.getV 0, t.getV 15)) = some (0, 1) ∧
      (runWord 0x7FFF (start.setV 15 2)).map (fun t => t.getV 15) = some 1 := by decide

theorem test_addImm_no_flag :
    (runWord 0x7F01 ((startWith { Config.default with addImmSetsVf := false }).setV 15 0xFF)).map (fun t => t.getV 15) =
        some 0 ∧
      (runWord 0x7001 ((startWith { Config.default with addImmSetsVf := false }).setV 0 0xFF)).map
        (fun t => (t.getV 0, t.getV 15)) = some (0, 0) := by decide

theorem test_or :
    (runWord 0x8121 (((start.setV 1 0x0F).setV 2 0xF0).setV 15 7)).map (fun t => (t.getV 1, t.getV 15)) =
        some (0xFF, 7) ∧
      (runWord 0x8F21 ((start.setV 15 1).setV 2 0x10)).map (fun t => t.getV 15) = some 0x11 := by decide

theorem test_and :
    (runWord 0x8122 ((start.setV 1 0x3C).setV 2 0x0F)).map (fun t => (t.getV 1, t.getV 15)) = some (0x0C, 0) := by
  decide

theorem test_xor :
    (runWord 0x8123 ((start.setV 1 0x3C).setV 2 0x0F)).map (fun t => (t.getV 1, t.getV 15)) = some (0x33, 0) ∧
      (runWord 0x8113 (start.setV 1 0x5A)).map (fun t => t.getV 1) = some 0 := by decide

theorem test_addReg :
    (runWord 0x8124 ((start.setV 1 0xF0).setV 2 0x20)).map (fun t => (t.getV 1, t.getV 15)) = some (0x10, 1) ∧
      (runWord 0x81F4 ((start.setV 1 0x10).setV 15 5)).map (fun t => (t.getV 1, t.getV 15)) = some (0x15, 0) := by
  decide

theorem test_addReg_flag_last :
    (runWord 0x8F14 ((start.setV 15 0x80).setV 1 0x80)).map (fun t => t.getV 15) = some 1 := by decide

theorem test_sub :
    (runWord 0x8125 ((start.setV 1 0x10).setV 2 0x20)).map (fun t => (t.getV 1, t.getV 15)) = some (0xF0, 0) ∧
      (runWord 0x8125 ((start.setV 1 0x20).setV 2 0x20)).map (fun t => (t.getV 1, t.getV 15)) = some (0, 1) := by
  decide

theorem test_subn :
    (runWord 0x8127 ((start.setV 1 0x10).setV 2 0x20)).map (fun t => (t.getV 1, t.getV 15)) = some (0x10, 1) ∧
      (runWord 0x8127 ((start.setV 1 0x20).setV 2 0x10)).map (fun t => (t.getV 1, t.getV 15)) = some (0xF0, 0) := by
  decide

theorem test_shr :
    (runWord 0x8126 ((start.setV 1 0x80).setV 2 3)).map (fun t => (t.getV 1, t.getV 15)) = some (0x40, 0) ∧
      (runWord 0x8F06 (start.setV 15 3)).map (fun t => t.getV 15) = some 1 := by decide

theorem test_shr_vy :
    (runWord 0x8126 ((startWith { Config.default with shiftSource := .vy }).setV 2 3)).map
      (fun t => (t.getV 1, t.getV 2, t.getV 15)) = some (1, 3, 1) := by decide

theorem test_shl :
    (runWord 0x810E (start.setV 1 0x81)).map (fun t => (t.getV 1, t.getV 15)) = some (2, 1) ∧
      (runWord 0x810E (start.setV 1 0x40)).map (fun t => (t.getV 1, t.getV 15)) = some (0x80, 0) := by decide

theorem test_shl_vy :
    (runWord 0x812E ((startWith { Config.default with shiftSource := .vy }).setV 2 0x40)).map
      (fun t => (t.getV 1, t.getV 15)) = some (0x80, 0) := by decide

theorem test_addI :
    (runWord 0xF01E ((start.setI 0xFFFF).setV 0 2)).map (fun t => (t.i.toNat, t.getV 15)) = some (1, 1) ∧
      (runWord 0xFF1E ((start.setI 0xFFFF).setV 15 1)).map (fun t => (t.i.toNat, t.getV 15)) = some (0, 1) := by
  decide

theorem test_addI_modes :
    (runWord 0xF01E (((startWith { Config.default with addIVf := .overflow12 }).setI 0xFFF).setV 0 1)).map
        (fun t => (t.i.toNat, t.getV 15)) = some (0x1000, 1) ∧
      (runWord 0xF01E ((((startWith { Config.default with addIVf := .unchanged }).setI 0xFFF).setV 0 1).setV 15 9)).map
        (fun t => (t.i.toNat, t.getV 15)) = some (0x1000, 9) := by decide

/-! ### Transfer (V5, V8) -/

theorem test_ldImm : (runWord 0x6FAB start).map (fun t => (t.getV 15, t.pc.toNat)) = some (0xAB, 0x202) := by decide

theorem test_ldReg : (runWord 0x8130 (start.setV 3 0x7F)).map (fun t => (t.getV 1, t.getV 3)) = some (0x7F, 0x7F) := by
  decide

theorem test_ldI : (runWord 0xA2F0 (start.setI 0xF123)).map (fun t => t.i.toNat) = some 0x2F0 := by decide

theorem test_ldF :
    (runWord 0xF429 (start.setV 4 0x0B)).map (fun t => t.i.toNat) = some 0x37 ∧
      (runWord 0xF429 (start.setV 4 0x1A)).map (fun t => t.i.toNat) = some 0x32 := by decide

theorem test_ldB :
    (runWord 0xF033 ((start.setV 0 255).setI 0x300)).map
        (fun t => (t.readByte 0x300, t.readByte 0x301, t.readByte 0x302)) = some (2, 5, 5) ∧
      (runWord 0xF033 ((start.setV 0 42).setI 0x300)).map
        (fun t => (t.readByte 0x300, t.readByte 0x301, t.readByte 0x302)) = some (0, 4, 2) := by decide

theorem test_ldB_faults :
    (runWord 0xF033 ((start.setV 0 255).setI 0xFFE)).map (fun t => (t.run, t.readByte 0xFFE)) =
        some (.faulted .addressOutOfRange 0x200 (some 0xF033) (some 0x1000), 0) ∧
      (runWord 0xF033 ((start.setV 0 255).setI 0x1FF)).map State.run =
        some (.faulted .reservedMemoryWrite 0x200 (some 0xF033) (some 0x1FF)) := by decide

theorem test_saveReg :
    (runWord 0xF155 (((start.setV 0 1).setV 1 2).setI 0x300)).map
        (fun t => (t.readByte 0x300, t.readByte 0x301, t.i.toNat)) = some (1, 2, 0x300) ∧
      (runWord 0xFF55 (start.setI 0xFF1)).map State.run =
        some (.faulted .addressOutOfRange 0x200 (some 0xFF55) (some 0x1000)) := by decide

theorem test_saveReg_modes :
    (runWord 0xF155 ((startWith { Config.default with rangeIMode := .addXPlus1 }).setI 0x300)).map
        (fun t => t.i.toNat) = some 0x302 ∧
      (runWord 0xF155 ((startWith { Config.default with rangeIMode := .addX }).setI 0x300)).map
        (fun t => t.i.toNat) = some 0x301 := by decide

theorem test_loadReg :
    (runWord 0xF465 start).map (fun t => (t.getV 0, t.getV 1, t.getV 3, t.getV 4, t.getV 5)) =
        some (0xF0, 0x90, 0x90, 0xF0, 0) ∧
      (runWord 0xF165 (start.setI 0x1000)).map State.run =
        some (.faulted .addressOutOfRange 0x200 (some 0xF165) (some 0x1000)) := by decide

/-! ### Random, timers, input (V6) -/

theorem test_rnd :
    (runWord 0xC30F (start.setHost { start.host with randoms := [0xA7] })).map (fun t => (t.getV 3, t.host.randoms)) =
      some (0x07, []) := by decide

theorem test_ldVxDt : (runWord 0xFF07 (start.setDt 9)).map (fun t => (t.getV 15, t.dt)) = some (9, 9) := by decide

theorem test_ldDt : (runWord 0xF015 (start.setV 0 10)).map (fun t => t.dt) = some 10 := by decide

theorem test_ldSt :
    (runWord 0xF018 (start.setV 0 4)).map (fun t => (t.st, t.soundOn, t.sound.length, t.pc.toNat)) =
        some (4, true, 1, 0x202) ∧
      (runWord 0xF018 (start.setSt 5)).map (fun t => (t.st, t.soundOn, t.sound)) = some (0, false, [.stop]) := by
  decide

theorem test_ldSt_fails :
    (runWord 0xF018 (failing.setV 0 4)).map (fun t => (t.st, t.run, t.pc.toNat)) =
      some (4, .faulted .soundPortFailure 0x200 (some 0xF018) none, 0x200) := by decide

theorem test_skp :
    (runWord 0xE19E ((start.setHost { start.host with keys := [0x0020] }).setV 1 5)).map (fun t => t.pc.toNat) =
        some 0x204 ∧
      (runWord 0xE19E ((start.setHost { start.host with keys := [0x0040] }).setV 1 5)).map (fun t => t.pc.toNat) =
        some 0x202 := by decide

theorem test_skp_faults :
    (runWord 0xE19E (start.setV 1 16)).map (fun t => (t.run, t.host.portOks.length)) =
        some (.faulted .inputPortFailure 0x200 (some 0xE19E) (some 16), 20) ∧
      (runWord 0xE19E (failing.setV 1 5)).map State.run =
        some (.faulted .inputPortFailure 0x200 (some 0xE19E) (some 5)) := by decide

theorem test_sknp :
    (runWord 0xE1A1 (start.setV 1 5)).map (fun t => t.pc.toNat) = some 0x204 ∧
      (runWord 0xE1A1 ((start.setHost { start.host with keys := [0x0020] }).setV 1 5)).map (fun t => t.pc.toNat) =
        some 0x202 := by decide

theorem test_ldVxK :
    (runWord 0xF30A start).map (fun t => (t.run, t.pc.toNat)) = some (.waitingForKey 3, 0x200) := by decide

theorem test_key_down :
    (after (withEvents (start.setRun (.waitingForKey 3)) [.keyDown 7])).map
        (fun t => (t.getV 3, t.pc.toNat, t.run)) = some (7, 0x202, .running) ∧
      (after (withEvents (start.setRun (.waitingForKey 3)) [.cancel])).map (fun t => (t.getV 3, t.pc.toNat, t.run)) =
        some (0, 0x200, .halted .cancelled) := by decide

theorem test_tickDT :
    (after (withEvents (start.setDt 1) [.tickDT])).map (fun t => t.dt) = some 0 ∧
      (after (withEvents start [.tickDT])).map (fun t => t.dt) = some 0 := by decide

theorem test_tickST :
    (after (withEvents (start.setSt 2) [.tickST])).map (fun t => (t.st, t.sound)) = some (1, []) ∧
      (after (withEvents (start.setSt 1) [.tickST])).map (fun t => (t.st, t.sound)) = some (0, [.stop]) ∧
      (after (withEvents (failing.setSt 1) [.tickST])).map (fun t => (t.st, t.run)) =
        some (0, .faulted .soundPortFailure 0x200 none none) := by decide

/-! ### Display (V7) -/

theorem test_cls :
    (runWord 0x00E0 (start.setFb (togglePixel clearFb 3 4).1)).map (fun t => (pixel t.fb 3 4, t.pc.toNat)) =
      some (false, 0x202) := by decide

theorem test_drw_glyph :
    (runWord 0xD015 start).map (fun t => (row t.fb 0 5, row t.fb 1 5, t.getV 15, t.pc.toNat)) =
      some ([true, true, true, true, false], [true, false, false, true, false], 0, 0x202) := by decide

theorem test_drw_wraps :
    (runWord 0xD011 ((start.setV 0 62).setV 1 31)).map
      (fun t => (pixel t.fb 62 31, pixel t.fb 63 31, pixel t.fb 0 31, pixel t.fb 1 31, pixel t.fb 2 31, t.getV 15)) =
      some (true, true, true, true, false, 0) := by decide

theorem test_drw_collides :
    (runWord 0xD011 (start.setFb (togglePixel clearFb 3 0).1)).map (fun t => (row t.fb 0 4, t.getV 15)) =
        some ([true, true, true, false], 1) ∧
      (runWord 0xD010 (start.setV 15 1)).map (fun t => (row t.fb 0 4, t.getV 15)) =
        some ([false, false, false, false], 0) := by decide

theorem test_drw_faults :
    (runWord 0xD01F (start.setI 0x1005)).map State.run =
        some (.faulted .addressOutOfRange 0x200 (some 0xD01F) (some 0x1005)) ∧
      (runWord 0xD011 (failing.setFb (togglePixel clearFb 0 0).1)).map
          (fun t => (row t.fb 0 4, t.getV 15, t.run)) =
        some ([false, true, true, true], 0, .faulted .displayPortFailure 0x200 (some 0xD011) none) := by decide


/-! ### Witnesses: every statement with hypotheses, or with clauses that have some, has states that meet them -/

/-- About to run one word. -/
def at_ (w : Nat) (s : State) : State := s.withFetchWord 16 w

/-- Waiting at an FX0A. -/
def waiting : State := (at_ 0xF30A start).setRun (.waitingForKey 3)

/-- A full image, whose last byte has a place, and the addresses around a short one. -/
theorem witness_BootLeavesResetState :
    (List.replicate 3584 (1 : Byte)).length ≤ 3584 ∧ 3583 < (List.replicate 3584 (1 : Byte)).length ∧
      (¬ (512 ≤ 511 ∧ 511 < 512 + 3584) ∧ ¬ (432 ≤ 511 ∧ 511 < 432 + 79)) ∧
      (¬ (512 ≤ 4095 ∧ 4095 < 512 + 3583) ∧ ¬ (0 ≤ 4095 ∧ 4095 < 0 + 80)) := by
  simp

theorem witness_BootRefusesLongImage : 3584 < (List.replicate 3585 (1 : Byte)).length := by simp

theorem witness_LaunchMeetsInvariant : ∃ s, boot Config.default [0x60, 0x05, 0x70] = some s := ⟨_, rfl⟩

/-- A running state meets the invariant, and has a step. -/
theorem witness_StepKeepsInvariant : ∃ t, Inv (at_ 0x2300 start) ∧ step (at_ 0x2300 start) = .next t := by
  refine ⟨_, ⟨by decide, by decide, by decide, by decide, ?_, by decide, ?_, ?_, by decide⟩, rfl⟩
  · intro x h
    exact absurd (show Run.running = .waitingForKey x from h) (by simp)
  · intro f p w a h
    exact absurd (show Run.running = .faulted f p w a from h) (by simp)
  · intro f p w a h
    exact absurd (show Run.running = .faulted f p (some w) a from h) (by simp)

/-- A waiting state meets the invariant, and has a step. -/
theorem witness_StepKeepsInvariant_waiting :
    ∃ t, Inv (withEvents waiting [.keyDown 7]) ∧ step (withEvents waiting [.keyDown 7]) = .next t := by
  refine ⟨_, ⟨by decide, by decide, by decide, by decide, ?_, by decide, ?_, ?_, by decide⟩, rfl⟩
  · intro x h
    have h : Run.waitingForKey 3 = .waitingForKey x := h
    injection h with h
    subst h
    decide
  · intro f p w a h
    exact absurd (show Run.waitingForKey 3 = .faulted f p w a from h) (by simp)
  · intro f p w a h
    exact absurd (show Run.waitingForKey 3 = .faulted f p (some w) a from h) (by simp)

/-- A store right above the region, and the last address of it. -/
theorem witness_StepKeepsReservedRegion :
    ∃ t, (at_ 0xF055 (start.setI 512)).cfg.lowMemoryWrite = .fault ∧
      step (at_ 0xF055 (start.setI 512)) = .next t ∧ 511 < 512 := ⟨_, rfl, rfl, by decide⟩

theorem witness_DecodeOfEncode :
    Instr.halt.wellFormed Config.default = true ∧
      Instr.cls.wellFormed { Config.default with haltOnZero := false } = true := by decide

theorem witness_EncodeOfDecode : decode true 0x0000 = .ok .halt ∧ decode false 0xFF65 = .ok (.loadReg 15) := by decide

/-- The last address from which a word can be fetched. -/
theorem witness_StepRunsDecodedInstruction :
    (at_ 0x2300 (start.setPc 4094)).run = .running ∧ (at_ 0x2300 (start.setPc 4094)).drawEvent.1 = .core ∧
      (at_ 0x2300 (start.setPc 4094)).pc.toNat < 4095 ∧
      decode true (BitVec.ofNat 16 (256 * ((at_ 0x2300 (start.setPc 4094)).readByte 4094).toNat +
        ((at_ 0x2300 (start.setPc 4094)).readByte 4095).toNat)) = .ok (.call 0x300) := by decide

theorem witness_FetchOutsideMemoryFaults :
    (withEvents (start.setPc 4095) [.core]).run = .running ∧
      (withEvents (start.setPc 4095) [.core]).drawEvent.1 = .core ∧ 4095 ≤ (start.setPc 4095).pc.toNat ∧
      4095 ≤ (start.setPc 0xFFFF).pc.toNat := by decide

theorem witness_InvalidWordIsDiagnosedNoOp :
    (at_ 0x5011 start).run = .running ∧ (at_ 0x5011 start).drawEvent.1 = .core ∧
      (at_ 0x5011 start).fetch = .ok 0x5011 ∧ decode true 0x5011 = .error .group5 := ⟨rfl, rfl, rfl, rfl⟩

/-- An ended run of each kind; live ones with the stack full. -/
theorem witness_LiveStatesStepAndEndedOnesDoNot :
    (start.setRun (.halted .pcOverflow)).run = .halted .pcOverflow ∧
      (start.raise .stackOverflow none none).run = .faulted .stackOverflow 0x200 none none ∧
      (fullStack.live ∧ fullStack.sp.toNat ≤ 16) ∧
      ((fullStack.setRun (.waitingForKey 15)).live ∧ (fullStack.setRun (.waitingForKey 15)).sp.toNat ≤ 16) :=
  ⟨rfl, rfl, ⟨.inl rfl, by decide⟩, ⟨.inr ⟨15, rfl⟩, by decide⟩⟩

theorem witness_RunChangesByTheTable :
    (∃ t, step (at_ 0xF30A start) = .next t ∧ t.run = .waitingForKey 3) ∧
      ∃ t, step (at_ 0x0000 start) = .next t ∧ t.run = .halted .haltSentinel := ⟨⟨_, rfl, rfl⟩, ⟨_, rfl, rfl⟩⟩

/-- The two transitions that the table lacks, the second in a state that the invariant rules out. -/
theorem witness_RunChangesByTheTable_beyond :
    (∃ t, step (withEvents ((failing.setSt 1).setRun (.waitingForKey 3)) [.tickST]) = .next t ∧
        t.run = .faulted .soundPortFailure 0x200 none none) ∧
      ∃ t, step (withEvents (waiting.setPc 0xFFFE) [.keyDown 7]) = .next t ∧ t.run = .halted .pcOverflow :=
  ⟨⟨_, rfl, rfl⟩, ⟨_, rfl, rfl⟩⟩

theorem witness_PreciseFaultsChangeOnlyRun :
    ∃ t, start.run = .running ∧ exec .ret start = .next t ∧
      t.run = .faulted .stackUnderflow 0x200 (some 0x00EE) (some 0x200) ∧
      FaultKind.stackUnderflow ≠ .displayPortFailure ∧ FaultKind.stackUnderflow ≠ .soundPortFailure :=
  ⟨_, rfl, rfl, rfl, by decide, by decide⟩

/-- A skip that moves on to the last PC value, and one that would pass it; a RET that moves on, one that would pass the
last PC value, and one on the empty stack. -/
theorem witness_PcNeverWraps :
    (∃ t, exec (.seImm 0 0) (start.setPc 0xFFFB) = .next t ∧ t.run = .running ∧ t.pc.toNat = 0xFFFF) ∧
      ∃ t, exec (.seImm 0 0) (start.setPc 0xFFFC) = .next t ∧ t.run = .halted .pcOverflow ∧
        (start.setPc 0xFFFC).run = .running ∧ 0xFFFF < (start.setPc 0xFFFC).pc.toNat + 4 :=
  ⟨⟨_, rfl, rfl, rfl⟩, ⟨_, rfl, rfl, rfl, by decide⟩⟩

theorem witness_PcNeverWraps_ret :
    (∃ t, exec .ret fullStack = .next t ∧ fullStack.run = .running ∧ t.pc.toNat = 0x202) ∧
      (∃ t, exec .ret (start.setStack 1 (Vector.replicate 16 0xFFFE)) = .next t ∧ t.run = .halted .pcOverflow ∧
        t.pc.toNat = 0xFFFE) ∧
      ∃ t, exec .ret start = .next t ∧ t.pc = start.pc := ⟨⟨_, rfl, rfl, rfl⟩, ⟨_, rfl, rfl, rfl⟩, ⟨_, rfl, rfl⟩⟩

theorem witness_ConfigFixedDiagnosticsGrow :
    ∃ t, step (at_ 0x5011 start) = .next t ∧ t.diag = [.invalidInstruction 0x200 0x5011] := ⟨_, rfl, rfl⟩

/-- An instruction outside all five lists, and one inside each. -/
theorem witness_OnlyTheirInstructionsWrite :
    (∃ t, exec (.ldI 5) start = .next t) ∧ (∃ t, exec (.call 5) start = .next t ∧ t.sp ≠ start.sp) ∧
      (∃ t, exec (.drw 0 0 1) start = .next t ∧ pixel t.fb 0 0 ≠ pixel start.fb 0 0) ∧
      (∃ t, exec (.ldB 0) ((start.setI 0x300).setV 0 9) = .next t ∧ t.readByte 0x302 ≠ start.readByte 0x302) ∧
      (∃ t, exec (.ldSt 0) (start.setV 0 9) = .next t ∧ t.st ≠ start.st) ∧
      ∃ t, exec (.ldDt 0) (start.setV 0 9) = .next t ∧ t.dt ≠ start.dt :=
  ⟨⟨_, rfl⟩, ⟨_, rfl, by decide⟩, ⟨_, rfl, by decide⟩, ⟨_, rfl, by decide⟩, ⟨_, rfl, by decide⟩, ⟨_, rfl, by decide⟩⟩

/-- The conditional instructions at their edge: register 14, and the two configurations that keep VF. -/
theorem witness_OtherInstructionsKeepVf :
    (∃ t, exec (.loadReg 14) start = .next t ∧ (14 : Reg) ≠ 15) ∧
      (∃ t, exec (.addImm 14 1) (startWith { Config.default with addImmSetsVf := false }) = .next t) ∧
      (∃ t, exec (.addI 15) (startWith { Config.default with addIVf := .unchanged }) = .next t) :=
  ⟨⟨_, rfl, by decide⟩, ⟨_, rfl⟩, ⟨_, rfl⟩⟩

theorem witness_HaltStopsAtItsAddress :
    start.cfg.haltOnZero = true ∧ (startWith { Config.default with haltOnZero := false }).cfg.haltOnZero = false := by
  decide

/-- The last free slot, and the first. -/
theorem witness_CallPushesItsAddress : start.sp.toNat < 16 ∧ (start.setStack 15 start.stack).sp.toNat < 16 := by decide

/-- The first slot and the last; the last return address that can be advanced from, and the first that cannot. -/
theorem witness_RetResumesAfterTheCall :
    (0 < (start.setStack 1 start.stack).sp.toNat ∧ (start.setStack 1 start.stack).sp.toNat ≤ 16) ∧
      (0 < fullStack.sp.toNat ∧ fullStack.sp.toNat ≤ 16) ∧ (fullStack.stack[15]).toNat + 2 ≤ 0xFFFF ∧
      ((fullStack.setStack 16 (Vector.replicate 16 0xFFFD)).stack[15]).toNat + 2 ≤ 0xFFFF ∧
      0xFFFF < ((fullStack.setStack 16 (Vector.replicate 16 0xFFFE)).stack[15]).toNat + 2 := by decide

theorem witness_StackFaultsOnFullAndEmpty : fullStack.sp = 16 ∧ start.sp = 0 := by decide

/-- The state right after the CALL itself may be the one RET runs in, here on the last slot. -/
theorem witness_CallThenReturnResumes :
    (start.setStack 15 start.stack).sp.toNat < 16 ∧ (start.setStack 15 start.stack).pc.toNat + 2 ≤ 0xFFFF ∧
      ∃ t, exec (.call 0x300) (start.setStack 15 start.stack) = .next t ∧ t.sp = t.sp ∧ t.stack[15] = t.stack[15] :=
  ⟨by decide, by decide, _, rfl, rfl, rfl⟩

/-- Both outcomes, and the last PC value from which each advance moves on. -/
theorem witness_SkipsOnImmediate :
    start.getV 15 = 0 ∧ start.getV 15 ≠ 0xFF ∧ (start.setPc 0xFFFB).pc.toNat + 4 ≤ 0xFFFF ∧
      (start.setPc 0xFFFD).pc.toNat + 2 ≤ 0xFFFF := by decide

theorem witness_SkipsOnRegister :
    start.getV 3 = start.getV 3 ∧ (start.setV 3 1).getV 3 ≠ (start.setV 3 1).getV 4 ∧ (1 : Nibble) ≠ 0 ∧
      (15 : Nibble) ≠ 0 := by decide

theorem witness_AddImmediate :
    start.cfg.addImmSetsVf = true ∧ (14 : Reg) ≠ 15 ∧
      (startWith { Config.default with addImmSetsVf := false }).cfg.addImmSetsVf = false ∧
      (start.setPc 0xFFFD).pc.toNat + 2 ≤ 0xFFFF := by decide

theorem witness_LogicOperations : (start.setPc 0xFFFD).pc.toNat + 2 ≤ 0xFFFF := by decide

theorem witness_AddRegisters : (14 : Reg) ≠ 15 ∧ (start.setPc 0xFFFD).pc.toNat + 2 ≤ 0xFFFF := by decide

theorem witness_Subtractions : (0 : Reg) ≠ 15 ∧ (start.setPc 0xFFFD).pc.toNat + 2 ≤ 0xFFFF := by decide

/-- The source under each value of `SHIFT_SOURCE`. -/
theorem witness_Shifts :
    3 = (match (start.setV 1 3).cfg.shiftSource with
      | .vx => ((start.setV 1 3).getV 1).toNat
      | .vy => ((start.setV 1 3).getV 2).toNat) ∧
      255 = (match ((startWith { Config.default with shiftSource := .vy }).setV 2 255).cfg.shiftSource with
        | .vx => (((startWith { Config.default with shiftSource := .vy }).setV 2 255).getV 1).toNat
        | .vy => (((startWith { Config.default with shiftSource := .vy }).setV 2 255).getV 2).toNat) ∧
      (1 : Reg) ≠ 15 := by decide

/-- The stores that end at the last address, that start right above the reserved region, and that `WRITE` allows;
the two faults at their edges. -/
theorem witness_StoresBcd :
    (start.setI 4093).storeAllowed 3 ∧ (start.setI 512).storeAllowed 3 ∧
      ((startWith { Config.default with lowMemoryWrite := .write }).setI 511).storeAllowed 3 ∧
      4096 ≤ (start.setI 4094).i.toNat + 2 ∧
      ((start.setI 511).i.toNat < 512 ∧ (start.setI 511).cfg.lowMemoryWrite = .fault) := by
  unfold State.storeAllowed
  decide

theorem witness_SavesRegisters :
    (start.setI 4080).storeAllowed ((15 : Reg).toNat + 1) ∧ (start.setI 4095).storeAllowed ((0 : Reg).toNat + 1) ∧
      (start.setI 512).storeAllowed ((15 : Reg).toNat + 1) ∧ (15 : Reg).toNat ≤ (15 : Reg).toNat := by
  unfold State.storeAllowed
  decide

theorem witness_LoadsRegisters :
    (start.setI 4080).i.toNat + (15 : Reg).toNat < 4096 ∧ (start.setI 4095).i.toNat + (0 : Reg).toNat < 4096 ∧
      start.i.toNat + (15 : Reg).toNat < 4096 := by decide

/-- The state after the store, with I as before, is one the load may run in. -/
theorem witness_SaveThenLoadRestores :
    ∃ t, (start.setI 4080).storeAllowed ((15 : Reg).toNat + 1) ∧ exec (.saveReg 15) (start.setI 4080) = .next t ∧
      t.i = (start.setI 4080).i ∧ ∀ a, t.readByte a = t.readByte a :=
  ⟨_, by unfold State.storeAllowed; decide, rfl, by decide, fun _ => rfl⟩

theorem witness_RangeFaultsReportTheLowestAddress :
    4096 < (start.setI 4094).i.toNat + 3 ∧ 4096 < (start.setI 4081).i.toNat + ((15 : Reg).toNat + 1) ∧
      4096 < (start.setI 4096).i.toNat + ((0 : Reg).toNat + 1) ∧
      (0 < (1 : Nibble).toNat ∧ 4096 < (start.setI 4096).i.toNat + (1 : Nibble).toNat) ∧
      ((start.setI 511).i.toNat < 512 ∧ (start.setI 511).cfg.lowMemoryWrite = .fault) := by decide

/-- A pending byte, and none. -/
theorem witness_RandomIsMasked :
    (start.setHost { start.host with randoms := [0xA7] }).host.randoms = 0xA7 :: [] ∧ start.host.randoms = [] := by
  decide

/-- No change of `sound_on`, both changes, and the two outcomes of the port. -/
theorem witness_SoundTimerWrite :
    (start.st = 0 ↔ start.getV 0 = 0) ∧ ((start.setSt 1).st = 0 ↔ ((start.setSt 1).setV 0 255).getV 0 = 0) ∧
      ¬ (start.st = 0 ↔ (start.setV 0 1).getV 0 = 0) ∧ ¬ ((start.setSt 1).st = 0 ↔ (start.setSt 1).getV 0 = 0) ∧
      start.drawPortOk.1 = true ∧ failing.drawPortOk.1 = false := by decide

theorem witness_KeySkips :
    ((start.setV 1 15).getV 1).toNat ≤ 15 ∧ (start.setV 1 15).drawPortOk.1 = true ∧
      (start.drawPortOk.2.drawKeys.1.getLsbD 15 = false) ∧
      ((start.setHost { start.host with keys := [0x8000] }).drawPortOk.2.drawKeys.1.getLsbD 15 = true) := by decide

theorem witness_KeySkipFaults :
    15 < ((start.setV 1 16).getV 1).toNat ∧ 15 < ((start.setV 1 255).getV 1).toNat ∧
      ((failing.setV 1 15).getV 1).toNat ≤ 15 ∧ (failing.setV 1 15).drawPortOk.1 = false := by decide

/-- The wait, its event, and the PC values up to which the advance moves on. -/
theorem witness_KeyDownCompletesTheWait :
    (withEvents waiting [.keyDown 15]).run = .waitingForKey 3 ∧
      (withEvents waiting [.keyDown 15]).drawEvent.1 = .keyDown 15 ∧
      (withEvents waiting [.keyDown 15]).pc.toNat + 2 ≤ 0xFFFF ∧ (waiting.setPc 0xFFFD).pc.toNat + 2 ≤ 0xFFFF ∧
      0xFFFF < (waiting.setPc 0xFFFE).pc.toNat + 2 := by decide

theorem witness_CancelAndPollFailure :
    ((withEvents waiting [.cancel]).live ∧ (withEvents waiting [.cancel]).drawEvent.1 = .cancel) ∧
      ((withEvents start [.cancel]).live ∧ (withEvents start [.cancel]).drawEvent.1 = .cancel) ∧
      ((withEvents waiting [.pollFail]).run = .waitingForKey 3 ∧
        (withEvents waiting [.pollFail]).drawEvent.1 = .pollFail) ∧
      ((withEvents waiting [.core]).run = .waitingForKey 3 ∧ (withEvents waiting [.core]).drawEvent.1 = .core) ∧
      ((withEvents start [.pollFail]).run = .running ∧ (withEvents start [.pollFail]).drawEvent.1 = .pollFail) ∧
      ((withEvents start [.keyDown 15]).run = .running ∧
        ∃ k, (withEvents start [.keyDown 15]).drawEvent.1 = .keyDown k) :=
  ⟨⟨.inr ⟨3, rfl⟩, rfl⟩, ⟨.inl rfl, rfl⟩, ⟨rfl, rfl⟩, ⟨rfl, rfl⟩, ⟨rfl, rfl⟩, ⟨rfl, 15, rfl⟩⟩

theorem witness_ClearsScreen : start.drawPortOk.1 = true ∧ failing.drawPortOk.1 = false := by decide

/-- The corner pixel, met by coordinates inside the screen and by wrapped ones. -/
theorem witness_TogglesWrappedPixel : 63 < 64 ∧ 31 < 32 ∧ 63 = 63 % 64 ∧ 63 = 255 % 64 ∧ 31 = 255 % 32 := by decide

/-- What every `AdvancesBy 2`, `AdvancesBy 4` and screen clause of a statement asks, at the edge. -/
theorem witness_AdvancesBy :
    (start.setPc 0xFFFD).pc.toNat + 2 ≤ 0xFFFF ∧ (start.setPc 0xFFFB).pc.toNat + 4 ≤ 0xFFFF ∧ start.pc.toNat + 4 ≤ 0xFFFF ∧
      63 < 64 ∧ 31 < 32 := by decide

/-- Nothing to read, wherever I points; 15 rows up to the last address with 15 successful pushes; a collision and
none. -/
theorem witness_DrawsSpriteByXor :
    ((0 : Nibble) = 0 ∧ (start.setI 0xFFFF).nextPortsOk (0 : Nibble).toNat) ∧
      ((start.setI 4081).i.toNat + (15 : Nibble).toNat ≤ 4096 ∧ (start.setI 4081).nextPortsOk (15 : Nibble).toNat) ∧
      SpriteCollides 1 63 31 (start.setFb (togglePixel clearFb 63 31).1) ∧ ¬ SpriteCollides 1 63 31 start := by
  refine ⟨⟨rfl, trivial⟩, ⟨by decide, ?_⟩, ⟨63, 31, by decide, by decide, ⟨0, 0, by decide⟩, by decide⟩, ?_⟩
  · change State.nextPortsOk _ 15
    simp only [State.nextPortsOk]
    decide
  · rintro ⟨px, py, -, -, -, h⟩
    rw [show start.fb = clearFb from rfl] at h
    simp [pixel, clearFb] at h

/-- The push after the last of 15 rows fails, and the push after the only row. -/
theorem witness_DrawPushFailureKeepsRows :
    (failing.i.toNat + (1 : Nibble).toNat ≤ 4096 ∧ 0 < (1 : Nibble).toNat ∧ failing.nextPortsOk 0 ∧
        (failing.afterPorts 0).drawPortOk.1 = false) ∧
      ((failing.setHost { failing.host with portOks := [true, true, false] }).i.toNat + (3 : Nibble).toNat ≤ 4096 ∧
        2 < (3 : Nibble).toNat ∧ (failing.setHost { failing.host with portOks := [true, true, false] }).nextPortsOk 2 ∧
        ((failing.setHost { failing.host with portOks := [true, true, false] }).afterPorts 2).drawPortOk.1 = false) := by
  refine ⟨⟨by decide, by decide, trivial, by decide⟩, ⟨by decide, by decide, ?_, by decide⟩⟩
  simp only [State.nextPortsOk]
  decide

/-- The state after the first draw, with a screen to collide with, is one the second may run in. -/
theorem witness_DrawingTwiceRestoresTheScreen :
    ∃ t, start.i.toNat + (1 : Nibble).toNat ≤ 4096 ∧ start.nextPortsOk (1 : Nibble).toNat ∧
      exec (.drw 0 1 1) start = .next t ∧ t.i = start.i ∧ t.getV 0 = start.getV 0 ∧ t.getV 1 = start.getV 1 ∧
      (∀ a, t.readByte a = start.readByte a) ∧ t.nextPortsOk (1 : Nibble).toNat := by
  refine ⟨_, by decide, ?_, rfl, by decide, by decide, by decide, fun _ => rfl, ?_⟩
  all_goals
    change State.nextPortsOk _ 1
    simp only [State.nextPortsOk]
    decide

/-- Both ticks, the one that stops the tone with each outcome of the port. -/
theorem witness_TimersTick :
    (withEvents start [.tickDT]).live ∧ (withEvents start [.tickDT]).drawEvent.1 = .tickDT ∧
      ((withEvents (start.setSt 255) [.tickST]).drawEvent.1 = .tickST ∧ (start.setSt 255).st ≠ 1) ∧
      ((withEvents (start.setSt 1) [.tickST]).drawEvent.1 = .tickST ∧ (start.setSt 1).st = 1 ∧
        (withEvents (start.setSt 1) [.tickST]).drawEvent.2.drawPortOk.1 = true) ∧
      (withEvents (failing.setSt 1) [.tickST]).drawEvent.2.drawPortOk.1 = false :=
  ⟨.inl rfl, rfl, ⟨rfl, by decide⟩, ⟨rfl, rfl, by decide⟩, by decide⟩

theorem witness_DelayTimerGrowsOnlyByFx15 :
    ∃ t, step (at_ 0xF015 (start.setV 0 10)) = .next t ∧ start.dt.toNat < t.dt.toNat := ⟨_, rfl, by decide⟩

/-! A fair run: a jump to itself, the Core and both ticks in turn, from DT = 10. -/

/-- The jump to itself, with a value of DT and the next event. -/
def spinning (d : Byte) (e : Event) : State := withEvents ((start.storeWord 0x200 0x1200).setDt d) [e]

/-- The Core, TickDT and TickST in turn. -/
def turn (n : Nat) : Event := if n % 3 = 0 then .core else if n % 3 = 1 then .tickDT else .tickST

/-- DT before step `n`. -/
def spinDt : Nat → Byte
  | 0 => 10
  | n + 1 => if n % 3 = 1 ∧ 0 < (spinDt n).toNat then spinDt n - 1 else spinDt n

/-- The run. -/
def spin (n : Nat) : State := spinning (spinDt n) (turn n)

theorem spin_turns (n : Nat) : (spin n).drawEvent.1 = turn n := rfl

theorem spin_fetches (d : Byte) : (spinning d .core).drawEvent.2.fetch = .ok 0x1200 := by
  have h : (start.storeWord 0x200 0x1200).fetch = .ok 0x1200 := by decide
  exact h

theorem spin_jumps (d : Byte) :
    step (spinning d .core) = .next ((spinning d .core).drawEvent.2.setPc 0x200) := by
  change coreIteration (spinning d .core).drawEvent.2 = _
  rw [coreIteration, spin_fetches]
  rfl

theorem spin_isRun : IsRun spin := by
  intro n
  rcases (by omega : n % 3 = 0 ∨ n % 3 = 1 ∨ n % 3 = 2) with h | h | h
  · have hd : spinDt (n + 1) = spinDt n := by simp [spinDt, h]
    have ht : turn n = .core := by simp [turn, h]
    refine ⟨(spinning (spinDt n) .core).drawEvent.2.setPc 0x200, (spin (n + 1)).host, ?_, ?_⟩
    · rw [spin, ht]
      exact spin_jumps _
    · rw [spin, hd]
      rfl
  · have hd : spinDt (n + 1) = if 0 < (spinDt n).toNat then spinDt n - 1 else spinDt n := by simp [spinDt, h]
    have ht : turn n = .tickDT := by simp [turn, h]
    refine ⟨tickDT (spinning (spinDt n) .tickDT).drawEvent.2, (spin (n + 1)).host, ?_, ?_⟩
    · rw [spin, ht]
      rfl
    · rw [spin, hd, tickDT, show (spinning (spinDt n) .tickDT).drawEvent.2.dt = spinDt n from rfl]
      split_ifs <;> rfl
  · have hd : spinDt (n + 1) = spinDt n := by simp [spinDt, h]
    have ht : turn n = .tickST := by simp [turn, h]
    refine ⟨spinning (spinDt n) .tickST |>.drawEvent.2, (spin (n + 1)).host, ?_, ?_⟩
    · rw [spin, ht]
      rfl
    · rw [spin, hd]
      rfl

/-- The premises of both halves: no write of a timer in the first step, and fairness. -/
theorem witness_TimersDecayInEveryRun :
    FairRun spin ∧ (spin 0).dt = 10 ∧ ¬ (spin 0).writesDt ∧ ¬ (spin 0).writesSt := by
  refine ⟨⟨spin_isRun, fun n => ⟨3 * n + 1, by omega, ?_⟩, fun n => ⟨3 * n + 2, by omega, ?_⟩⟩, rfl, ?_, ?_⟩
  · rw [spin_turns, turn, if_neg (by omega), if_pos (by omega)]
  · rw [spin_turns, turn, if_neg (by omega), if_neg (by omega)]
  · rintro ⟨-, -, x, h⟩
    revert x
    decide
  · rintro ⟨-, -, x, h⟩
    revert x
    decide

end Sys2Proof.Tests
end

section
/-! PROOFS. The cycle loop: rules for frames, the Core's iteration of a Running state, and O13
(40_cycle_loop.md R106). -/

namespace Sys2Proof.Machine

variable {s t u : State}

/-! ### Frames -/

theorem Part.Same.trans {p : Part} (hst : p.Same s t) (htu : p.Same t u) : p.Same s u := by
  cases p <;> exact Eq.trans htu hst

/-- Two changes in a row touch at most what the one or the other may touch. -/
theorem ChangesOnlyIn.trans {ps qs : List Part} (hst : ChangesOnlyIn ps s t) (htu : ChangesOnlyIn qs t u) :
    ChangesOnlyIn (ps ++ qs) s u := fun p hp =>
  (hst p fun h => hp (List.mem_append_left qs h)).trans (htu p fun h => hp (List.mem_append_right ps h))

theorem ChangesOnlyIn.mono {ps qs : List Part} (h : ChangesOnlyIn ps s t) (hsub : ps ⊆ qs) :
    ChangesOnlyIn qs s t := fun p hp => h p fun hmem => hp (hsub hmem)

theorem changesOnlyIn_advance (s : State) (n : Nat) : ChangesOnlyIn [.pc, .run] s (s.advance n) := by
  intro p hp
  cases p
  case pc | run => simp at hp
  all_goals simp [Part.Same]

theorem changesOnlyIn_addDiag (s : State) (d : Diagnostic) : ChangesOnlyIn [.diag] s (s.addDiag d) := by
  intro p hp
  cases p
  case diag => simp at hp
  all_goals simp [Part.Same]

/-- The scheduler's choice changes the model's own event fields alone. -/
theorem changesOnlyIn_drawEvent (s : State) : ChangesOnlyIn [.events, .drawn] s s.drawEvent.2 := by
  intro p hp
  cases p
  case events | drawn => simp at hp
  all_goals simp [Part.Same, s.drawEvent_host]

/-! ### The Core's iteration -/

/-- A Running state whose next event is the Core steps by one iteration. -/
theorem step_of_running_core (hrun : s.run = .running) (hcore : s.drawEvent.1 = .core) :
    step s = coreIteration s.drawEvent.2 := by
  rw [step_of_live (.inl hrun), hcore, takeEvent, coreTurn, State.drawEvent_run, hrun]

theorem coreIteration_of_invalid {w : Word} {e : InvalidWord} (hfetch : s.fetch = .ok w)
    (hdecode : decode s.cfg.haltOnZero w = .error e) : coreIteration s = .next (invalidWord w s) := by
  simp only [coreIteration, hfetch, hdecode]

/-! ### The invalid word -/

@[simp] theorem invalidWord_diag (w : Word) (s : State) :
    (invalidWord w s).diag = s.diag ++ [.invalidInstruction s.pc w] := by
  simp [invalidWord]

/-- The advance of an invalid word, seen from an earlier state with the same PC and `run`. -/
theorem advancesBy_invalidWord (w : Word) (hpc : t.pc = s.pc) (hrun : t.run = s.run) :
    AdvancesBy 2 s (invalidWord w t) :=
  advancesBy_advance (t := t.addDiag _) hpc hrun

theorem changesOnlyIn_invalidWord (w : Word) (s : State) :
    ChangesOnlyIn [.diag, .pc, .run] s (invalidWord w s) :=
  (changesOnlyIn_addDiag s _).trans (changesOnlyIn_advance _ 2)

/-- Settles O13: the step is `invalidWord` after the scheduler's choice, and the frame is the two frames composed. -/
theorem invalidWordIsDiagnosedNoOp : Obligations.InvalidWordIsDiagnosedNoOp := by
  intro s w e hrun hcore hfetch hdecode
  have hstep : step s = .next (invalidWord w s.drawEvent.2) := by
    rw [step_of_running_core hrun hcore]
    exact coreIteration_of_invalid (s.fetch_drawEvent.trans hfetch) (by rwa [State.drawEvent_cfg])
  refine ⟨_, hstep, by simp, advancesBy_invalidWord w s.drawEvent_pc s.drawEvent_run, ?_⟩
  exact ((changesOnlyIn_drawEvent s).trans (changesOnlyIn_invalidWord w _)).mono (by simp)

end Sys2Proof.Machine
end

section
/-! PROOFS. Control flow: the fields of a word `op NNN`, the frame of a write of the PC, and O22
(41_control_flow.md R122). -/

namespace Sys2Proof

/-! ### The fields of a word `op NNN` (30_encoding.md R71) -/

@[simp] theorem fieldOp_encodeNNN (op : Nibble) (nnn : Addr12) : fieldOp (encodeNNN op nnn) = op :=
  BitVec.extractLsb'_append_eq_left

@[simp] theorem fieldNNN_encodeNNN (op : Nibble) (nnn : Addr12) : fieldNNN (encodeNNN op nnn) = nnn :=
  BitVec.extractLsb'_append_eq_right

end Sys2Proof

namespace Sys2Proof.Machine

/-! ### A write of the PC -/

@[simp] theorem toNat_absTarget (nnn : Addr12) : (absTarget nnn).toNat = nnn.toNat :=
  BitVec.toNat_setWidth_of_le (by decide)

theorem changesOnlyIn_setPc (s : State) (w : Word) : ChangesOnlyIn [.pc] s (s.setPc w) := by
  intro p hp
  cases p
  case pc => simp at hp
  all_goals simp [Part.Same]

/-! ### JP nnn -/

theorem decodesTo_jp (nnn : Addr12) : DecodesTo (encodeNNN 0x1 nnn) (.jp nnn) := by
  intro haltOnZero
  simp [decode]

theorem exec_jp (nnn : Addr12) (s : State) : exec (.jp nnn) s = .next (s.setPc (absTarget nnn)) := rfl

/-- Settles O22: the next state is the old one with its PC written, and zero-extension keeps the target's value. -/
theorem jumpSetsPc : Obligations.JumpSetsPc := by
  intro nnn s
  refine ⟨decodesTo_jp nnn, s.setPc (absTarget nnn), exec_jp nnn s, ?_, changesOnlyIn_setPc s _⟩
  rw [State.setPc_pc, toNat_absTarget]

end Sys2Proof.Machine
end

section
/-! PROOFS. Transfer: the fields of a word `op X NN`, the frame of a register write, and O37 (43_transfer.md R160). -/

namespace Sys2Proof

/-! ### The fields of a word `op X NN` (30_encoding.md R71) -/

@[simp] theorem fieldOp_encodeXNN (op : Nibble) (x : Reg) (nn : Byte) : fieldOp (encodeXNN op x nn) = op :=
  (BitVec.extractLsb'_append_eq_of_le (by decide)).trans BitVec.extractLsb'_append_eq_left

@[simp] theorem fieldX_encodeXNN (op : Nibble) (x : Reg) (nn : Byte) : fieldX (encodeXNN op x nn) = x :=
  (BitVec.extractLsb'_append_eq_of_le (by decide)).trans BitVec.extractLsb'_append_eq_right

@[simp] theorem fieldNN_encodeXNN (op : Nibble) (x : Reg) (nn : Byte) : fieldNN (encodeXNN op x nn) = nn :=
  BitVec.extractLsb'_append_eq_right

end Sys2Proof

namespace Sys2Proof.Machine

/-! ### A write of a register -/

theorem changesOnlyIn_setV (s : State) (x : Reg) (b : Byte) : ChangesOnlyIn [.reg x] s (s.setV x b) := by
  intro p hp
  cases p
  case reg y => exact s.getV_setV_of_ne b (by simpa using hp)
  all_goals simp [Part.Same]

/-! ### LD Vx, nn -/

theorem decodesTo_ldImm (x : Reg) (nn : Byte) : DecodesTo (encodeXNN 0x6 x nn) (.ldImm x nn) := by
  intro haltOnZero
  simp [decode]

theorem exec_ldImm (x : Reg) (nn : Byte) (s : State) : exec (.ldImm x nn) s = .next ((s.setV x nn).advance 2) := rfl

/-- Settles O37: the next state is the register write followed by the advance, and the frame is theirs composed. -/
theorem loadsImmediate : Obligations.LoadsImmediate := by
  intro x nn s
  refine ⟨decodesTo_ldImm x nn, _, exec_ldImm x nn s, ?_, ?_, ?_⟩
  · rw [State.getV_advance, State.getV_setV_self]
  · exact advancesBy_advance (s.setV_pc x nn) (s.setV_run x nn)
  · exact (changesOnlyIn_setV s x nn).trans (changesOnlyIn_advance _ 2)

end Sys2Proof.Machine
end

section
/-! PROOFS. Display: `toggle_pixel` (45_display.md R200) and O54. -/

namespace Sys2Proof.Machine

/-- Settles O54: the prior value is the wrapped pixel's; on the screen itself px and py are their own remainders, so
the toggle's flip by remainder is the statement's. -/
theorem togglesWrappedPixel : Obligations.TogglesWrappedPixel := by
  intro f x y
  constructor
  · rw [togglePixel_was, pixel_wrap]
  · intro px py hpx hpy
    rw [pixel_togglePixel, Nat.mod_eq_of_lt hpx, Nat.mod_eq_of_lt hpy]

end Sys2Proof.Machine
end

section
/-! PROOFS. The decoder: the fields of a word and the word of its fields, and O7 to O10 (30_encoding.md R71-R76). -/

namespace Sys2Proof

/-! ### The fields of a word `op X Y n` (30_encoding.md R71) -/

@[simp] theorem fieldOp_encodeXYN (op : Nibble) (x y : Reg) (n : Nibble) : fieldOp (encodeXYN op x y n) = op :=
  (BitVec.extractLsb'_append_eq_of_le (by decide)).trans
    ((BitVec.extractLsb'_append_eq_of_le (by decide)).trans BitVec.extractLsb'_append_eq_left)

@[simp] theorem fieldX_encodeXYN (op : Nibble) (x y : Reg) (n : Nibble) : fieldX (encodeXYN op x y n) = x :=
  (BitVec.extractLsb'_append_eq_of_le (by decide)).trans
    ((BitVec.extractLsb'_append_eq_of_le (by decide)).trans BitVec.extractLsb'_append_eq_right)

@[simp] theorem fieldY_encodeXYN (op : Nibble) (x y : Reg) (n : Nibble) : fieldY (encodeXYN op x y n) = y :=
  (BitVec.extractLsb'_append_eq_of_le (by decide)).trans BitVec.extractLsb'_append_eq_right

@[simp] theorem fieldN_encodeXYN (op : Nibble) (x y : Reg) (n : Nibble) : fieldN (encodeXYN op x y n) = n :=
  BitVec.extractLsb'_append_eq_right

/-! ### The fields as naturals -/

theorem toNat_fieldOp (w : Word) : (fieldOp w).toNat = w.toNat / 0x1000 := by
  simp only [fieldOp, BitVec.extractLsb'_toNat, Nat.shiftRight_eq_div_pow]
  omega

theorem toNat_fieldN (w : Word) : (fieldN w).toNat = w.toNat % 16 := by
  simp [fieldN]

theorem toNat_fieldNN (w : Word) : (fieldNN w).toNat = w.toNat % 256 := by
  simp [fieldNN]

theorem toNat_fieldNNN (w : Word) : (fieldNNN w).toNat = w.toNat % 4096 := by
  simp [fieldNNN]

/-! ### A word is the word of its fields -/

theorem encodeNNN_fields (w : Word) : encodeNNN (fieldOp w) (fieldNNN w) = w := by
  apply BitVec.eq_of_getLsbD_eq
  intro k hk
  simp only [encodeNNN, fieldOp, fieldNNN, BitVec.getLsbD_append, BitVec.getLsbD_extractLsb']
  split_ifs with h
  · simp [h]
  · rw [show 12 + (k - 12) = k by omega]
    simp [show k - 12 < 4 by omega]

theorem encodeXNN_fields (w : Word) : encodeXNN (fieldOp w) (fieldX w) (fieldNN w) = w := by
  apply BitVec.eq_of_getLsbD_eq
  intro k hk
  simp only [encodeXNN, fieldOp, fieldX, fieldNN, BitVec.getLsbD_append, BitVec.getLsbD_extractLsb']
  split_ifs with h8 h12
  · simp [h8]
  · rw [show 8 + (k - 8) = k by omega]
    simp [h12]
  · rw [show 12 + (k - 8 - 4) = k by omega]
    simp [show k - 8 - 4 < 4 by omega]

theorem encodeXYN_fields (w : Word) : encodeXYN (fieldOp w) (fieldX w) (fieldY w) (fieldN w) = w := by
  apply BitVec.eq_of_getLsbD_eq
  intro k hk
  simp only [encodeXYN, fieldOp, fieldX, fieldY, fieldN, BitVec.getLsbD_append, BitVec.getLsbD_extractLsb']
  split_ifs with h4 h8 h12
  · simp [h4]
  · rw [show 4 + (k - 4) = k by omega]
    simp [h8]
  · rw [show 8 + (k - 4 - 4) = k by omega]
    simp [h12]
  · rw [show 12 + (k - 4 - 4 - 4) = k by omega]
    simp [show k - 4 - 4 - 4 < 4 by omega]

/-! ### Decoding the word of an instruction -/

/-- The word of every instruction but HALT decodes to it under either value of `HALT_ON_ZERO`. -/
theorem decodesTo_encode {i : Instr} (hi : i ≠ .halt) : Machine.DecodesTo (encode i) i := by
  intro haltOnZero
  cases i with
  | halt => exact absurd rfl hi
  | cls | ret => rfl
  | jp _ | call _ | ldI _ | jpV0 _ => simp [encode, decode]
  | seImm _ _ | sneImm _ _ | ldImm _ _ | addImm _ _ | rnd _ _ => simp [encode, decode]
  | seReg _ _ | sneReg _ _ | drw _ _ _ => simp [encode, decode]
  | ldReg _ _ | or _ _ | and _ _ | xor _ _ | addReg _ _ | sub _ _ | shr _ _ | subn _ _ | shl _ _ =>
    simp [encode, decode, decode8]
  | skp _ | sknp _ => simp [encode, decode, decodeE]
  | ldVxDt _ | ldVxK _ | ldDt _ | ldSt _ | addI _ | ldF _ | ldB _ | saveReg _ | loadReg _ =>
    simp [encode, decode, decodeF]

/-- Settles O7: HALT's word decodes to it where HALT exists, and the word of every other instruction always does. -/
theorem decodeOfEncode : Obligations.DecodeOfEncode := by
  intro c i hi
  by_cases h : i = .halt
  · subst h
    have hz : c.haltOnZero = true := hi
    rw [hz]
    rfl
  · exact decodesTo_encode h c.haltOnZero

/-! ### The word of a decoded instruction -/

/-- The op field as the literal that `decode` matched. -/
theorem fieldOp_eq {w : Word} {k : Nat} (h : (fieldOp w).toNat = k) : fieldOp w = BitVec.ofNat 4 k := by
  rw [← h, BitVec.ofNat_toNat, BitVec.setWidth_eq]

theorem encodeNNN_of_op {w : Word} {k : Nat} (h : (fieldOp w).toNat = k) :
    encodeNNN (BitVec.ofNat 4 k) (fieldNNN w) = w := by
  rw [← fieldOp_eq h, encodeNNN_fields]

theorem encodeXNN_of_op {w : Word} {k : Nat} (h : (fieldOp w).toNat = k) :
    encodeXNN (BitVec.ofNat 4 k) (fieldX w) (fieldNN w) = w := by
  rw [← fieldOp_eq h, encodeXNN_fields]

theorem encodeXYN_of_op {w : Word} {k : Nat} (h : (fieldOp w).toNat = k) :
    encodeXYN (BitVec.ofNat 4 k) (fieldX w) (fieldY w) (fieldN w) = w := by
  rw [← fieldOp_eq h, encodeXYN_fields]

theorem encode_of_decode0 {h : Bool} {nnn : Addr12} {i : Instr} (hd : decode0 h nnn = .ok i) :
    encode i = encodeNNN 0 nnn := by
  unfold decode0 at hd
  split_ifs at hd with hcls hret hhalt <;> cases hd
  · rw [hcls]; rfl
  · rw [hret]; rfl
  · rw [hhalt.1]; rfl

theorem encode_of_decode8 {x y : Reg} {n : Nibble} {i : Instr} (hd : decode8 x y n = .ok i) :
    encode i = encodeXYN 8 x y n := by
  unfold decode8 at hd
  split at hd <;> cases hd
  all_goals
    next hn => rw [show n = BitVec.ofNat 4 n.toNat by simp, hn]; rfl

theorem encode_of_decodeE {x : Reg} {nn : Byte} {i : Instr} (hd : decodeE x nn = .ok i) :
    encode i = encodeXNN 0xE x nn := by
  unfold decodeE at hd
  split_ifs at hd with hnn hnn <;> cases hd <;> rw [hnn] <;> rfl

theorem encode_of_decodeF {x : Reg} {nn : Byte} {i : Instr} (hd : decodeF x nn = .ok i) :
    encode i = encodeXNN 0xF x nn := by
  unfold decodeF at hd
  split_ifs at hd with hnn hnn hnn hnn hnn hnn hnn hnn hnn <;> cases hd <;> rw [hnn] <;> rfl

/-- A word that decodes to an instruction is its word: group by group, the literals that `decode` matched are the
fields that `encode` writes. -/
theorem encode_of_decode {h : Bool} {w : Word} {i : Instr} (hd : decode h w = .ok i) : encode i = w := by
  unfold decode at hd
  split at hd
  next hop => exact (encode_of_decode0 hd).trans (encodeNNN_of_op hop)
  next hop => cases hd; exact encodeNNN_of_op hop
  next hop => cases hd; exact encodeNNN_of_op hop
  next hop => cases hd; exact encodeXNN_of_op hop
  next hop => cases hd; exact encodeXNN_of_op hop
  next hop =>
    split_ifs at hd with hn
    cases hd
    exact (congrArg (encodeXYN 5 _ _) hn.symm).trans (encodeXYN_of_op hop)
  next hop => cases hd; exact encodeXNN_of_op hop
  next hop => cases hd; exact encodeXNN_of_op hop
  next hop => exact (encode_of_decode8 hd).trans (encodeXYN_of_op hop)
  next hop =>
    split_ifs at hd with hn
    cases hd
    exact (congrArg (encodeXYN 9 _ _) hn.symm).trans (encodeXYN_of_op hop)
  next hop => cases hd; exact encodeNNN_of_op hop
  next hop => cases hd; exact encodeNNN_of_op hop
  next hop => cases hd; exact encodeXNN_of_op hop
  next hop => cases hd; exact encodeXYN_of_op hop
  next hop => exact (encode_of_decodeE hd).trans (encodeXNN_of_op hop)
  next =>
    have hop : (fieldOp w).toNat = 0xF := by
      have := (fieldOp w).isLt
      simp only [imp_false] at *
      omega
    exact (encode_of_decodeF hd).trans (encodeXNN_of_op hop)

/-- Settles O8, by the groups of the decoder. -/
theorem encodeOfDecode : Obligations.EncodeOfDecode := fun _ _ _ => encode_of_decode

/-! ### The invalid words (30_encoding.md R76) -/

theorem decode0_error_iff {h : Bool} {nnn : Addr12} {e : InvalidWord} :
    decode0 h nnn = .error e ↔
      e = .group0 ∧ nnn ≠ 0x0E0 ∧ nnn ≠ 0x0EE ∧ (h = true → nnn ≠ 0x000) := by
  unfold decode0
  split_ifs with hcls hret hhalt
  · simp [hcls]
  · simp [hret]
  · simp [hhalt]
  · rw [Except.error.injEq, eq_comm, iff_self_and]
    exact fun _ => ⟨hcls, hret, fun hz h0 => hhalt ⟨h0, hz⟩⟩

theorem decode8_error_iff {x y : Reg} {n : Nibble} {e : InvalidWord} :
    decode8 x y n = .error e ↔ e = .group8 ∧ 8 ≤ n.toNat ∧ n.toNat ≠ 0xE := by
  unfold decode8
  split
  case h_10 =>
    rw [Except.error.injEq, eq_comm, iff_self_and]
    simp only [imp_false] at *
    omega
  all_goals simp [*]

theorem decodeE_error_iff {x : Reg} {nn : Byte} {e : InvalidWord} :
    decodeE x nn = .error e ↔ e = .groupE ∧ nn ≠ 0x9E ∧ nn ≠ 0xA1 := by
  unfold decodeE
  split_ifs with hskp hsknp
  · simp [hskp]
  · simp [hsknp]
  · rw [Except.error.injEq, eq_comm, iff_self_and]
    exact fun _ => ⟨hskp, hsknp⟩

/-- The low bytes of the nine instructions of group F. -/
def groupFBytes : List Byte := [0x07, 0x0A, 0x15, 0x18, 0x1E, 0x29, 0x33, 0x55, 0x65]

theorem decodeF_error_iff {x : Reg} {nn : Byte} {e : InvalidWord} :
    decodeF x nn = .error e ↔ e = .groupF ∧ nn ∉ groupFBytes := by
  by_cases hnn : nn ∈ groupFBytes
  · have hne : decodeF x nn ≠ .error e := by
      simp only [groupFBytes, List.mem_cons, List.not_mem_nil, or_false] at hnn
      rcases hnn with rfl | rfl | rfl | rfl | rfl | rfl | rfl | rfl | rfl <;> simp [decodeF]
    simp [hne, hnn]
  · have he : decodeF x nn = .error .groupF := by
      simp only [groupFBytes, List.mem_cons, not_or] at hnn
      simp only [decodeF, hnn, if_false]
    rw [he, Except.error.injEq, eq_comm, iff_self_and]
    exact fun _ => hnn

/-- The words of each row of the table of invalid words, by their fields. -/
def InvalidWord.Row (h : Bool) (w : Word) : InvalidWord → Prop
  | .group0 => (fieldOp w).toNat = 0 ∧ fieldNNN w ≠ 0x0E0 ∧ fieldNNN w ≠ 0x0EE ∧ (h = true → fieldNNN w ≠ 0x000)
  | .group5 => (fieldOp w).toNat = 5 ∧ fieldN w ≠ 0
  | .group8 => (fieldOp w).toNat = 8 ∧ 8 ≤ (fieldN w).toNat ∧ (fieldN w).toNat ≠ 0xE
  | .group9 => (fieldOp w).toNat = 9 ∧ fieldN w ≠ 0
  | .groupE => (fieldOp w).toNat = 0xE ∧ fieldNN w ≠ 0x9E ∧ fieldNN w ≠ 0xA1
  | .groupF => (fieldOp w).toNat = 0xF ∧ fieldNN w ∉ groupFBytes

theorem decode_error_iff {h : Bool} {w : Word} {e : InvalidWord} : decode h w = .error e ↔ e.Row h w := by
  unfold decode
  split
  case h_1 hop => rw [decode0_error_iff]; cases e <;> simp [InvalidWord.Row, hop]
  case h_6 hop => split_ifs <;> cases e <;> simp_all [InvalidWord.Row]
  case h_9 hop => rw [decode8_error_iff]; cases e <;> simp [InvalidWord.Row, hop]
  case h_10 hop => split_ifs <;> cases e <;> simp_all [InvalidWord.Row]
  case h_15 hop => rw [decodeE_error_iff]; cases e <;> simp [InvalidWord.Row, hop]
  case h_16 =>
    have hop : (fieldOp w).toNat = 0xF := by
      have := (fieldOp w).isLt
      simp only [imp_false] at *
      omega
    rw [decodeF_error_iff]; cases e <;> simp [InvalidWord.Row, hop]
  all_goals next hop => cases e <;> simp [InvalidWord.Row, hop]

/-- Settles O9: the rows by their fields, each field read as a quotient or a remainder of the word. -/
theorem invalidWordsAreTheSixPatterns : Obligations.InvalidWordsAreTheSixPatterns := by
  intro h w
  have hnnn (k : Addr12) : fieldNNN w = k ↔ w.toNat % 4096 = k.toNat := by
    rw [← toNat_fieldNNN, BitVec.toNat_inj]
  have hnn (k : Byte) : fieldNN w = k ↔ w.toNat % 256 = k.toNat := by
    rw [← toNat_fieldNN, BitVec.toNat_inj]
  have hn : fieldN w = 0 ↔ w.toNat % 16 = 0 := by
    rw [← toNat_fieldN, ← BitVec.toNat_inj]
    rfl
  have hw (k : Word) : w = k ↔ w.toNat = k.toNat := BitVec.toNat_inj.symm
  simp only [decode_error_iff, InvalidWord.Row, toNat_fieldOp, toNat_fieldN, hn, ne_eq, hnnn, hnn, hw,
    groupFBytes, List.mem_cons, List.not_mem_nil, or_false, BitVec.reduceToNat, and_true]
  cases h <;> simp <;> omega

/-- Settles O10: HALT's word under both values of its parameter, and ten words that are each the word of their
instruction. -/
theorem specWordsDecode : Obligations.SpecWordsDecode :=
  ⟨rfl, rfl, decodesTo_encode (i := .cls) nofun, decodesTo_encode (i := .jp 0xFFF) nofun,
    decodesTo_encode (i := .seReg 2 2) nofun, decodesTo_encode (i := .shl 0 0) nofun,
    decodesTo_encode (i := .addImm 0 3) nofun, decodesTo_encode (i := .sknp 0) nofun,
    decodesTo_encode (i := .loadReg 15) nofun, decodesTo_encode (i := .drw 15 15 0) nofun,
    decodesTo_encode (i := .rnd 3 0x0F) nofun, decodesTo_encode (i := .ldI 0x2F0) nofun⟩

end Sys2Proof
end

section
/-! PROOFS. Rules for frames: what each operation on the state may change, and how two changes in a row compose; and
the outcome of a port call. -/

namespace Sys2Proof.Machine

variable {s t u : State}

/-! ### Composing frames -/

theorem ChangesOnly.trans {may may' : Part → Prop} (hst : ChangesOnly may s t) (htu : ChangesOnly may' t u) :
    ChangesOnly (fun p => may p ∨ may' p) s u := fun p hp =>
  (hst p fun h => hp (.inl h)).trans (htu p fun h => hp (.inr h))

theorem ChangesOnly.mono {may may' : Part → Prop} (h : ChangesOnly may s t) (hsub : ∀ p, may p → may' p) :
    ChangesOnly may' s t := fun p hp => h p fun hmay => hp (hsub p hmay)

theorem ChangesOnlyIn.refl (ps : List Part) (s : State) : ChangesOnlyIn ps s s := by
  intro p _
  cases p <;> rfl

/-! ### Single fields -/

theorem changesOnlyIn_setI (s : State) (w : Word) : ChangesOnlyIn [.i] s (s.setI w) := by
  intro p hp
  cases p
  case i => simp at hp
  all_goals simp [Part.Same]

theorem changesOnlyIn_setDt (s : State) (b : Byte) : ChangesOnlyIn [.dt] s (s.setDt b) := by
  intro p hp
  cases p
  case dt => simp at hp
  all_goals simp [Part.Same]

theorem changesOnlyIn_setSt (s : State) (b : Byte) : ChangesOnlyIn [.st] s (s.setSt b) := by
  intro p hp
  cases p
  case st => simp at hp
  all_goals simp [Part.Same]

theorem changesOnlyIn_setRun (s : State) (r : Run) : ChangesOnlyIn [.run] s (s.setRun r) := by
  intro p hp
  cases p
  case run => simp at hp
  all_goals simp [Part.Same]

theorem changesOnlyIn_raise (s : State) (f : FaultKind) (w : Option Word) (a : Option Nat) :
    ChangesOnlyIn [.run] s (s.raise f w a) := changesOnlyIn_setRun s _

theorem changesOnlyIn_setFb (s : State) (f : Framebuffer) : ChangesOnlyIn [.fb] s (s.setFb f) := by
  intro p hp
  cases p
  case fb => simp at hp
  all_goals simp [Part.Same]

theorem changesOnlyIn_setShown (s : State) (f : Framebuffer) : ChangesOnlyIn [.shown] s (s.setShown f) := by
  intro p hp
  cases p
  case shown => simp at hp
  all_goals simp [Part.Same]

theorem changesOnlyIn_setFlag (s : State) (b : Bool) : ChangesOnlyIn [.reg 15] s (s.setFlag b) :=
  changesOnlyIn_setV s 15 _

theorem changesOnlyIn_setWithFlag (s : State) (x : Reg) (b : Byte) (f : Bool) :
    ChangesOnlyIn [.reg x, .reg 15] s (s.setWithFlag x b f) :=
  (changesOnlyIn_setV s x b).trans (changesOnlyIn_setFlag _ f)

theorem changesOnlyIn_updateI (s : State) (x : Reg) : ChangesOnlyIn [.i] s (s.updateI x) := by
  rw [s.updateI_eq x]
  exact changesOnlyIn_setI s _

/-! ### The stack -/

/-- Filling a slot changes SP and that slot alone. -/
theorem changesOnlyIn_setStack_set (s : State) (p : Byte) (v : Word) (k : Fin 16) :
    ChangesOnlyIn [.sp, .slot k] s (s.setStack p (s.stack.set k v)) := by
  intro q hq
  cases q
  case sp => simp at hq
  case slot j =>
    have hne : (k : Nat) ≠ j := fun e => hq (by simp [Fin.ext e])
    exact Vector.getElem_set_ne k.isLt j.isLt hne
  all_goals simp [Part.Same]

/-- Moving SP changes SP alone. -/
theorem changesOnlyIn_setStack (s : State) (p : Byte) : ChangesOnlyIn [.sp] s (s.setStack p s.stack) := by
  intro q hq
  cases q
  case sp => simp at hq
  all_goals simp [Part.Same]

/-! ### Ranges of bytes and of registers -/

/-- Writing bytes changes those bytes alone. -/
theorem changesOnly_writeBytes (s : State) (a : Nat) (bs : List Byte) :
    ChangesOnly (fun p => ∃ k, k < bs.length ∧ p = .byte (a + k)) s (s.writeBytes a bs) := by
  intro p hp
  cases p
  case byte b =>
    have hb : ¬ (a ≤ b ∧ b < a + bs.length) := fun h => hp ⟨b - a, by omega, by rw [Nat.add_sub_cancel' h.1]⟩
    exact (State.readByte_writeBytes bs s a b).trans (if_neg hb)
  all_goals simp [Part.Same]

/-- Writing registers from V0 on changes those registers alone. -/
theorem changesOnly_setVs (s : State) (bs : List Byte) (hlen : bs.length ≤ 16) :
    ChangesOnly (fun p => ∃ r : Reg, r.toNat < bs.length ∧ p = .reg r) s (s.setVs 0 bs) := by
  intro p hp
  cases p
  case reg r =>
    have hr : ¬ (0 ≤ r.toNat ∧ r.toNat < 0 + bs.length) := fun h => hp ⟨r, by omega, rfl⟩
    exact (State.getV_setVs bs s 0 (by omega) r).trans (if_neg hr)
  all_goals simp [Part.Same]

/-! ### Host draws and ports -/

/-- The outcome of a port call depends on the host inputs alone. -/
theorem drawPortOk_congr (h : t.host = s.host) : t.drawPortOk.1 = s.drawPortOk.1 := by
  unfold State.drawPortOk
  rw [h]
  cases s.host.portOks <;> rfl

theorem drawPortOk_host_congr (h : t.host = s.host) : t.drawPortOk.2.host = s.drawPortOk.2.host := by
  unfold State.drawPortOk
  rw [h]
  cases s.host.portOks <;> rfl

/-- A choice by the outcome of a port call, where the call succeeded. -/
theorem choice_of_ok {α : Type} {w : Bool × State} {f g : State → α} :
    w.1 = true → (match w with | (true, u) => f u | (false, u) => g u) = f w.2 := by
  obtain ⟨ok, u⟩ := w
  intro h
  obtain rfl : ok = true := h
  rfl

/-- A choice by the outcome of a port call, where the call failed. -/
theorem choice_of_failed {α : Type} {w : Bool × State} {f g : State → α} :
    w.1 = false → (match w with | (true, u) => f u | (false, u) => g u) = g w.2 := by
  obtain ⟨ok, u⟩ := w
  intro h
  obtain rfl : ok = false := h
  rfl

theorem changesOnlyIn_drawPortOk (s : State) : ChangesOnlyIn [.portOks, .drawn] s s.drawPortOk.2 := by
  intro p hp
  cases p
  case portOks | drawn => simp at hp
  all_goals simp [Part.Same, s.drawPortOk_host]

theorem changesOnlyIn_drawKeys (s : State) : ChangesOnlyIn [.keys, .drawn] s s.drawKeys.2 := by
  intro p hp
  cases p
  case keys | drawn => simp at hp
  all_goals simp [Part.Same, s.drawKeys_host]

theorem changesOnlyIn_drawRandom (s : State) : ChangesOnlyIn [.randoms, .drawn] s s.drawRandom.2 := by
  intro p hp
  cases p
  case randoms | drawn => simp at hp
  all_goals simp [Part.Same, s.drawRandom_host]

theorem changesOnlyIn_displayPush (s : State) : ChangesOnlyIn [.shown, .portOks, .drawn] s s.displayPush.2 :=
  (changesOnlyIn_setShown s s.fb).trans (changesOnlyIn_drawPortOk _)

theorem changesOnlyIn_drawRows (bs : List Byte) (s : State) (x y : Nat) (c : Bool) :
    ChangesOnlyIn [.fb, .shown, .portOks, .drawn] s (s.drawRows x y c bs).1 := by
  intro p hp
  have heq := State.drawRows_eq bs s x y c
  have hhost := State.drawRows_host bs s x y c
  cases p
  case fb | shown | portOks | drawn => simp at hp
  case events | randoms | keys => simp [Part.Same, hhost]
  all_goals rw [heq]; rfl

theorem changesOnlyIn_writeSt (s : State) (b : Byte) :
    ChangesOnlyIn [.st, .sound, .portOks, .drawn] s (s.writeSt b).2 := by
  intro p hp
  have heq := s.writeSt_eq b
  have hhost := s.writeSt_host b
  cases p
  case st | sound | portOks | drawn => simp at hp
  case events | randoms | keys => simp [Part.Same, hhost]
  all_goals rw [heq]; rfl

/-! ### Advances -/

theorem changesOnlyIn_skipIf (s : State) (c : Bool) : ChangesOnlyIn [.pc, .run] s (s.skipIf c) := by
  rcases s.skipIf_cases c with ⟨h, -⟩ | ⟨h, -⟩ <;> rw [h]
  · exact changesOnlyIn_advance s 4
  · exact changesOnlyIn_advance s 2

/-- The rule of an instruction that changes some parts, PC and `run` not among them, and then advances. -/
theorem advance_rule {ps : List Part} {n : Nat} (h : ChangesOnlyIn ps s t) (hpc : .pc ∉ ps := by simp)
    (hrun : .run ∉ ps := by simp) :
    AdvancesBy n s (t.advance n) ∧ ChangesOnlyIn (ps ++ [.pc, .run]) s (t.advance n) :=
  ⟨advancesBy_advance (h .pc hpc) (h .run hrun), h.trans (changesOnlyIn_advance t n)⟩

/-- Past 0xFFFF an advance halts the loop where it stands. -/
theorem State.advance_past (s : State) {n : Nat} (h : 0xFFFF < s.pc.toNat + n) :
    (s.advance n).pc = s.pc ∧ (s.advance n).run = .halted .pcOverflow := by
  rw [State.advance, if_pos h]
  exact ⟨rfl, rfl⟩

theorem advancedOrHalted_advance {pc : Word} (n : Nat) (hpc : t.pc = pc) (hrun : t.run = .running) :
    AdvancedOrHalted n pc (t.advance n) := by
  subst hpc
  by_cases h : t.pc.toNat + n ≤ 0xFFFF
  · have hadv := t.advance_pc_run n h
    exact .inl ⟨h, hadv.2.trans hrun, hadv.1⟩
  · have hpast := t.advance_past (Nat.lt_of_not_le h)
    exact .inr ⟨Nat.lt_of_not_le h, hpast.2, hpast.1⟩

end Sys2Proof.Machine
end

section
/-! PROOFS. Control flow and the stack: JP V0, CALL, RET and the skips, and O23 to O26 and O28 to O30
(41_control_flow.md). -/

namespace Sys2Proof.Machine

variable {s t u : State}

/-! ### JP V0, nnn -/

/-- The word `B X NN` is the word `B NNN` of the address `X NN`. -/
theorem encode_jpV0_append (x : Reg) (nn : Byte) : encode (.jpV0 (x ++ nn)) = 0xB#4 ++ x ++ nn :=
  (BitVec.append_assoc (x₁ := 0xB#4) (x₂ := x) (x₃ := nn)).symm

theorem exec_jpV0 (nnn : Addr12) (s : State) : exec (.jpV0 nnn) s = .next (s.setPc (s.offsetTarget nnn)) := rfl

theorem toNat_offsetTarget (s : State) (nnn : Addr12) :
    (s.offsetTarget nnn).toNat = nnn.toNat + (s.jumpOffset nnn).toNat := by
  have hnnn := nnn.isLt
  have hoff := (s.jumpOffset nnn).isLt
  rw [State.offsetTarget, BitVec.toNat_ofNat]
  omega

/-- The high nibble of the address picks the register under `JUMP_OFFSET_REG = VX`. -/
theorem jumpOffset_append (s : State) (x : Reg) (nn : Byte) :
    s.jumpOffset (x ++ nn) = match s.cfg.jumpOffsetReg with | .v0 => s.getV 0 | .vx => s.getV x := by
  unfold State.jumpOffset
  cases s.cfg.jumpOffsetReg with
  | v0 => rfl
  | vx => exact congrArg s.getV BitVec.extractLsb'_append_eq_left

theorem toNat_append_byte (x : Reg) (nn : Byte) : (x ++ nn).toNat = 256 * x.toNat + nn.toNat := by
  rw [BitVec.toNat_append, ← Nat.shiftLeft_add_eq_or_of_lt nn.isLt, Nat.shiftLeft_eq, Nat.mul_comm]

/-- Settles O23: the sum of a 12-bit address and a byte fits in the PC. -/
theorem jumpOffsetAddsRegister : Obligations.JumpOffsetAddsRegister := by
  intro x nn s
  refine ⟨encode_jpV0_append x nn ▸ decodesTo_encode nofun, _, exec_jpV0 _ s, ?_, changesOnlyIn_setPc s _⟩
  rw [State.setPc_pc, toNat_offsetTarget, jumpOffset_append, toNat_append_byte]
  cases s.cfg.jumpOffsetReg <;> rfl

/-! ### CALL and RET -/

theorem exec_call_of_free (nnn : Addr12) (h : s.sp.toNat < 16) :
    exec (.call nnn) s =
      .next ((s.setStack (s.sp + 1) (s.stack.set s.sp.toNat s.pc)).setPc (absTarget nnn)) := by
  simp [exec, execCall, State.spLegal, State.push, h, h.le]

theorem exec_call_of_full (nnn : Addr12) (h : s.sp.toNat = 16) :
    exec (.call nnn) s = .next (s.raise .stackOverflow (some (encode (.call nnn))) (some s.pc.toNat)) := by
  simp [exec, execCall, State.spLegal, State.push, h]

theorem exec_ret_of_used (h : 0 < s.sp.toNat ∧ s.sp.toNat ≤ 16) :
    exec .ret s = .next (((s.setStack (s.sp - 1) s.stack).setPc (s.stack[s.sp.toNat - 1]'(by omega))).advance 2) := by
  simp [exec, execRet, State.spLegal, State.pop, h]

theorem exec_ret_of_empty (h : s.sp.toNat = 0) :
    exec .ret s = .next (s.raise .stackUnderflow (some (encode .ret)) (some s.pc.toNat)) := by
  simp [exec, execRet, State.spLegal, State.pop, h]

theorem toNat_succ {b : Byte} (h : b.toNat < 255) : (b + 1).toNat = b.toNat + 1 := by
  rw [BitVec.toNat_add]
  simp
  omega

theorem toNat_pred {b : Byte} (h : 0 < b.toNat) : (b - 1).toNat = b.toNat - 1 := by
  have hle : (1 : Byte) ≤ b := by
    rw [BitVec.le_def]
    exact h
  rw [BitVec.toNat_sub_of_le hle]
  rfl

/-- Settles O24: the next state is the push followed by the jump. -/
theorem callPushesItsAddress : Obligations.CallPushesItsAddress := by
  intro nnn s
  refine ⟨decodesTo_encode (i := .call nnn) nofun, fun h => ⟨_, exec_call_of_free nnn h, ?_, ?_, ?_, ?_⟩⟩
  · rw [State.setPc_pc, toNat_absTarget]
  · exact toNat_succ (by omega)
  · exact Vector.getElem_set_self h
  · exact ((changesOnlyIn_setStack_set s _ s.pc ⟨_, h⟩).trans (changesOnlyIn_setPc _ _)).mono (by simp)

/-- Settles O25: each fault is raised from the state as it was. -/
theorem stackFaultsOnFullAndEmpty : Obligations.StackFaultsOnFullAndEmpty :=
  ⟨fun nnn s h => ⟨_, exec_call_of_full nnn (by rw [h]; rfl), entersFault_raise s _ _ _⟩,
    fun s h => ⟨_, exec_ret_of_empty (by rw [h]; rfl), entersFault_raise s _ _ _⟩⟩

/-- Settles O26: the next state is the pop, the jump to the popped address and the advance from there. -/
theorem retResumesAfterTheCall : Obligations.RetResumesAfterTheCall := by
  intro s
  refine ⟨decodesTo_encode (i := .ret) nofun, fun h => ⟨_, exec_ret_of_used h, ?_, ?_, ?_, ?_⟩⟩
  · rw [State.advance_sp]
    exact toNat_pred h.1
  · exact ((s.setStack (s.sp - 1) s.stack).setPc (s.stack[s.sp.toNat - 1]'(by omega))).advance_pc_run 2
  · exact ((s.setStack (s.sp - 1) s.stack).setPc (s.stack[s.sp.toNat - 1]'(by omega))).advance_past
  · exact (((changesOnlyIn_setStack s _).trans (changesOnlyIn_setPc _ _)).trans (changesOnlyIn_advance _ 2)).mono
      (by simp)

/-- Settles O28: the CALL leaves its own address in the slot that the RET pops. -/
theorem callThenReturnResumes : Obligations.CallThenReturnResumes := by
  intro nnn s t u h hpc hcall hsp hslot
  rw [exec_call_of_free nnn h] at hcall
  injection hcall with ht
  have hspt : u.sp = s.sp + 1 := by rw [hsp, ← ht]; rfl
  have hspu : u.sp.toNat = s.sp.toNat + 1 := by rw [hspt, toNat_succ (by omega)]
  have hslotu : u.stack[u.sp.toNat - 1]'(by omega) = s.pc := by
    simp only [hspu, Nat.add_sub_cancel, hslot, ← ht]
    exact Vector.getElem_set_self h
  refine ⟨_, exec_ret_of_used ⟨by omega, by omega⟩, ?_⟩
  rw [hslotu]
  have hadv := State.advance_pc_run ((u.setStack (u.sp - 1) u.stack).setPc s.pc) 2 hpc
  refine ⟨hadv.1, ?_, hadv.2⟩
  rw [State.advance_sp, State.setPc_sp, State.setStack_sp, hspt, BitVec.add_sub_cancel]

/-! ### Skips -/

theorem exec_seImm (x : Reg) (nn : Byte) (s : State) :
    exec (.seImm x nn) s = .next (s.skipIf (s.getV x == nn)) := rfl

theorem exec_sneImm (x : Reg) (nn : Byte) (s : State) :
    exec (.sneImm x nn) s = .next (s.skipIf (s.getV x != nn)) := rfl

theorem exec_seReg (x y : Reg) (s : State) :
    exec (.seReg x y) s = .next (s.skipIf (s.getV x == s.getV y)) := rfl

theorem exec_sneReg (x y : Reg) (s : State) :
    exec (.sneReg x y) s = .next (s.skipIf (s.getV x != s.getV y)) := rfl

/-- The rule of a skip in the state itself. -/
theorem skipIf_rule {c : Bool} {p : Prop} (hc : c = true ↔ p) (s : State) :
    SkipsWhen p s (s.skipIf c) ∧ ChangesOnlyIn [.pc, .run] s (s.skipIf c) :=
  ⟨skipsWhen_skipIf hc rfl rfl, changesOnlyIn_skipIf s c⟩

/-- Settles O29: each is a skip on its comparison. -/
theorem skipsOnImmediate : Obligations.SkipsOnImmediate := fun x nn s =>
  ⟨decodesTo_encode (i := .seImm x nn) nofun, decodesTo_encode (i := .sneImm x nn) nofun,
    ⟨_, exec_seImm x nn s, skipIf_rule beq_iff_eq s⟩, ⟨_, exec_sneImm x nn s, skipIf_rule bne_iff_ne s⟩⟩

theorem decode_group5 (h : Bool) (x y : Reg) {n : Nibble} (hn : n ≠ 0) :
    decode h (encodeXYN 0x5 x y n) = .error .group5 :=
  decode_error_iff.2 ⟨by simp, by simpa using hn⟩

theorem decode_group9 (h : Bool) (x y : Reg) {n : Nibble} (hn : n ≠ 0) :
    decode h (encodeXYN 0x9 x y n) = .error .group9 :=
  decode_error_iff.2 ⟨by simp, by simpa using hn⟩

/-- Settles O30: each is a skip on its comparison, and the rows 5 and 9 of the invalid words take the other low
nibbles. -/
theorem skipsOnRegister : Obligations.SkipsOnRegister := fun x y s =>
  ⟨decodesTo_encode (i := .seReg x y) nofun, decodesTo_encode (i := .sneReg x y) nofun,
    fun _ h hn => ⟨decode_group5 h x y hn, decode_group9 h x y hn⟩,
    ⟨_, exec_seReg x y s, skipIf_rule beq_iff_eq s⟩, ⟨_, exec_sneReg x y s, skipIf_rule bne_iff_ne s⟩⟩

end Sys2Proof.Machine
end

section
/-! PROOFS. Arithmetic and logic: a result and its flag as naturals, and O31 to O36 (42_arithmetic_logic.md). -/

namespace Sys2Proof.Machine

variable (s : State)

/-! ### The values that the arithmetic gives -/

theorem flagByte_decide (p : Prop) [Decidable p] : flagByte (decide p) = if p then 1 else 0 := by
  simp [flagByte]

theorem toNat_flagByte (b : Bool) : (flagByte b).toNat = b.toNat := by
  cases b <;> rfl

theorem toNat_add8 (a b : Byte) : (add8 a b).toNat = (a.toNat + b.toNat) % 256 := BitVec.toNat_ofNat _ 8

theorem toNat_sub8 (a b : Byte) : (sub8 a b).toNat = (a.toNat + 256 - b.toNat) % 256 := BitVec.toNat_ofNat _ 8

theorem toNat_shr8 (a : Byte) : (shr8 a).toNat = a.toNat / 2 := by
  have := a.isLt
  rw [shr8, BitVec.toNat_ofNat]
  omega

theorem toNat_shl8 (a : Byte) : (shl8 a).toNat = a.toNat * 2 % 256 := BitVec.toNat_ofNat _ 8

theorem toNat_shrOut (a : Byte) : (shrOut a).toNat = a.toNat % 2 := by
  rw [shrOut, BitVec.getLsbD, Nat.toNat_testBit]
  simp

theorem toNat_shlOut (a : Byte) : (shlOut a).toNat = a.toNat / 128 := by
  have := a.isLt
  rw [shlOut, BitVec.getLsbD, Nat.toNat_testBit]
  omega

theorem toNat_shiftSource (x y : Reg) :
    (s.shiftSource x y).toNat =
      match s.cfg.shiftSource with | .vx => (s.getV x).toNat | .vy => (s.getV y).toNat := by
  unfold State.shiftSource
  cases s.cfg.shiftSource <;> rfl

/-! ### Rules of the register results -/

/-- The rule of an instruction that writes one register and advances. -/
theorem setV_rule (x : Reg) (b : Byte) :
    ((s.setV x b).advance 2).getV x = b ∧ AdvancesBy 2 s ((s.setV x b).advance 2) ∧
      ChangesOnlyIn [.reg x, .pc, .run] s ((s.setV x b).advance 2) :=
  ⟨by rw [State.getV_advance, State.getV_setV_self], advance_rule (changesOnlyIn_setV s x b)⟩

/-- The rule of an instruction that writes I and advances. -/
theorem setI_rule (w : Word) :
    ((s.setI w).advance 2).i = w ∧ AdvancesBy 2 s ((s.setI w).advance 2) ∧
      ChangesOnlyIn [.i, .pc, .run] s ((s.setI w).advance 2) :=
  ⟨by rw [State.advance_i, State.setI_i], advance_rule (changesOnlyIn_setI s w)⟩

/-- The rule of an instruction that writes a result, then its flag, and advances. -/
theorem setWithFlag_rule (x : Reg) (b : Byte) (f : Bool) :
    ((s.setWithFlag x b f).advance 2).getV 15 = flagByte f ∧
      (x ≠ 15 → ((s.setWithFlag x b f).advance 2).getV x = b) ∧
      AdvancesBy 2 s ((s.setWithFlag x b f).advance 2) ∧
      ChangesOnlyIn [.reg x, .reg 15, .pc, .run] s ((s.setWithFlag x b f).advance 2) := by
  refine ⟨?_, fun hx => ?_, advance_rule (changesOnlyIn_setWithFlag s x b f)⟩
  · rw [State.getV_advance, State.setWithFlag, State.getV_setFlag, if_pos rfl]
  · rw [State.getV_advance, State.setWithFlag, State.getV_setFlag, if_neg hx, State.getV_setV_self]

/-! ### The meanings -/

theorem exec_addImm (x : Reg) (nn : Byte) :
    exec (.addImm x nn) s = .next ((if s.cfg.addImmSetsVf then
      s.setWithFlag x (add8 (s.getV x) nn) (carry8 (s.getV x) nn)
      else s.setV x (add8 (s.getV x) nn)).advance 2) := rfl

theorem exec_or (x y : Reg) : exec (.or x y) s = .next ((s.setV x (s.getV x ||| s.getV y)).advance 2) := rfl

theorem exec_and (x y : Reg) : exec (.and x y) s = .next ((s.setV x (s.getV x &&& s.getV y)).advance 2) := rfl

theorem exec_xor (x y : Reg) : exec (.xor x y) s = .next ((s.setV x (s.getV x ^^^ s.getV y)).advance 2) := rfl

theorem exec_addReg (x y : Reg) :
    exec (.addReg x y) s =
      .next ((s.setWithFlag x (add8 (s.getV x) (s.getV y)) (carry8 (s.getV x) (s.getV y))).advance 2) := rfl

theorem exec_sub (x y : Reg) :
    exec (.sub x y) s =
      .next ((s.setWithFlag x (sub8 (s.getV x) (s.getV y)) (notBorrow8 (s.getV x) (s.getV y))).advance 2) := rfl

theorem exec_subn (x y : Reg) :
    exec (.subn x y) s =
      .next ((s.setWithFlag x (sub8 (s.getV y) (s.getV x)) (notBorrow8 (s.getV y) (s.getV x))).advance 2) := rfl

theorem exec_shr (x y : Reg) :
    exec (.shr x y) s =
      .next ((s.setWithFlag x (shr8 (s.shiftSource x y)) (shrOut (s.shiftSource x y))).advance 2) := rfl

theorem exec_shl (x y : Reg) :
    exec (.shl x y) s =
      .next ((s.setWithFlag x (shl8 (s.shiftSource x y)) (shlOut (s.shiftSource x y))).advance 2) := rfl

/-- ADD I, Vx without the advance: I, then the flag where `ADD_I_VF` gives one. -/
def State.addToI (s : State) (x : Reg) : State :=
  match addIFlag s.cfg.addIVf s.i (s.getV x) with
  | some f => (s.setI (addI16 s.i (s.getV x))).setFlag f
  | none => s.setI (addI16 s.i (s.getV x))

theorem exec_addI (x : Reg) : exec (.addI x) s = .next ((s.addToI x).advance 2) := rfl

theorem addToI_cases (x : Reg) :
    (∃ f, addIFlag s.cfg.addIVf s.i (s.getV x) = some f ∧
        s.addToI x = (s.setI (addI16 s.i (s.getV x))).setFlag f) ∨
      (s.cfg.addIVf = .unchanged ∧ s.addToI x = s.setI (addI16 s.i (s.getV x))) := by
  unfold State.addToI
  cases h : s.cfg.addIVf with
  | carry16 | overflow12 => exact .inl ⟨_, rfl, rfl⟩
  | unchanged => exact .inr ⟨rfl, rfl⟩

theorem addToI_i (x : Reg) : (s.addToI x).i = addI16 s.i (s.getV x) := by
  rcases addToI_cases s x with ⟨f, -, h⟩ | ⟨-, h⟩ <;> rw [h] <;> rfl

theorem changesOnlyIn_addToI (x : Reg) : ChangesOnlyIn [.i, .reg 15] s (s.addToI x) := by
  rcases addToI_cases s x with ⟨f, -, h⟩ | ⟨-, h⟩ <;> rw [h]
  · exact (changesOnlyIn_setI s _).trans (changesOnlyIn_setFlag _ f)
  · exact (changesOnlyIn_setI s _).mono (by simp)

/-- VF after the sum: the flag where there is one, and else as before. -/
theorem getV_addToI (x : Reg) :
    (s.addToI x).getV 15 = ((addIFlag s.cfg.addIVf s.i (s.getV x)).map flagByte).getD (s.getV 15) := by
  rcases addToI_cases s x with ⟨f, hf, h⟩ | ⟨hf, h⟩ <;> rw [h]
  · rw [hf, State.getV_setFlag]
    rfl
  · rw [hf]
    rfl

/-! ### The obligations -/

/-- Settles O31: with the flag it is a result and its carry, without it a write of one register. -/
theorem addImmediate : Obligations.AddImmediate := by
  intro x nn s
  refine ⟨decodesTo_encode (i := .addImm x nn) nofun, _, exec_addImm s x nn, ?_⟩
  cases hset : s.cfg.addImmSetsVf with
  | true =>
    obtain ⟨hflag, hres, hadv, hframe⟩ :=
      setWithFlag_rule s x (add8 (s.getV x) nn) (carry8 (s.getV x) nn)
    rw [carry8, flagByte_decide] at hflag
    exact ⟨fun _ => ⟨hflag, fun hx => (congrArg _ (hres hx)).trans (toNat_add8 _ _), hframe⟩, nofun, hadv⟩
  | false =>
    obtain ⟨hres, hadv, hframe⟩ := setV_rule s x (add8 (s.getV x) nn)
    exact ⟨nofun, fun _ => ⟨(congrArg _ hres).trans (toNat_add8 _ _), hframe⟩, hadv⟩

/-- Settles O32: each is a write of one register. -/
theorem logicOperations : Obligations.LogicOperations := fun x y s =>
  ⟨decodesTo_encode (i := .or x y) nofun, decodesTo_encode (i := .and x y) nofun,
    decodesTo_encode (i := .xor x y) nofun, ⟨_, exec_or s x y, setV_rule s x _⟩, ⟨_, exec_and s x y, setV_rule s x _⟩,
    ⟨_, exec_xor s x y, setV_rule s x _⟩⟩

/-- Settles O33: a result and its carry. -/
theorem addRegisters : Obligations.AddRegisters := by
  intro x y s
  obtain ⟨hflag, hres, hend⟩ :=
    setWithFlag_rule s x (add8 (s.getV x) (s.getV y)) (carry8 (s.getV x) (s.getV y))
  rw [carry8, flagByte_decide] at hflag
  exact ⟨decodesTo_encode (i := .addReg x y) nofun, _, exec_addReg s x y, hflag,
    fun hx => (congrArg _ (hres hx)).trans (toNat_add8 _ _), hend⟩

/-- The rule of a difference `a - b` into V[x]. -/
theorem difference_rule (x : Reg) (a b : Byte) :
    ((s.setWithFlag x (sub8 a b) (notBorrow8 a b)).advance 2).getV 15 = (if b.toNat ≤ a.toNat then 1 else 0) ∧
      (x ≠ 15 → (((s.setWithFlag x (sub8 a b) (notBorrow8 a b)).advance 2).getV x).toNat =
        (a.toNat + 256 - b.toNat) % 256) ∧
      AdvancesBy 2 s ((s.setWithFlag x (sub8 a b) (notBorrow8 a b)).advance 2) ∧
      ChangesOnlyIn [.reg x, .reg 15, .pc, .run] s ((s.setWithFlag x (sub8 a b) (notBorrow8 a b)).advance 2) := by
  obtain ⟨hflag, hres, hend⟩ := setWithFlag_rule s x (sub8 a b) (notBorrow8 a b)
  exact ⟨hflag.trans (flagByte_decide _), fun hx => (congrArg _ (hres hx)).trans (toNat_sub8 _ _), hend⟩

/-- Settles O34: SUB and SUBN are one difference with its operands in either order. -/
theorem subtractions : Obligations.Subtractions := fun x y s =>
  ⟨decodesTo_encode (i := .sub x y) nofun, decodesTo_encode (i := .subn x y) nofun,
    ⟨_, exec_sub s x y, difference_rule s x (s.getV x) (s.getV y)⟩,
    ⟨_, exec_subn s x y, difference_rule s x (s.getV y) (s.getV x)⟩⟩

/-- Settles O35: each is a result and the bit shifted out of the one source. -/
theorem shifts : Obligations.Shifts := by
  intro x y s src hsrc
  replace hsrc : (s.shiftSource x y).toNat = src := (toNat_shiftSource s x y).trans hsrc.symm
  refine ⟨decodesTo_encode (i := .shr x y) nofun, decodesTo_encode (i := .shl x y) nofun,
    ⟨_, exec_shr s x y, ?_⟩, ⟨_, exec_shl s x y, ?_⟩⟩
  · obtain ⟨hflag, hres, hend⟩ := setWithFlag_rule s x (shr8 (s.shiftSource x y)) (shrOut (s.shiftSource x y))
    refine ⟨?_, fun hx => ?_, hend⟩
    · rw [hflag, toNat_flagByte, toNat_shrOut, hsrc]
    · rw [hres hx, toNat_shr8, hsrc]
  · obtain ⟨hflag, hres, hend⟩ := setWithFlag_rule s x (shl8 (s.shiftSource x y)) (shlOut (s.shiftSource x y))
    refine ⟨?_, fun hx => ?_, hend⟩
    · rw [hflag, toNat_flagByte, toNat_shlOut, hsrc]
    · rw [hres hx, toNat_shl8, hsrc]

/-- Settles O36: the sum in I, and VF as `addIFlag` says under each value of `ADD_I_VF`. -/
theorem addToIndex : Obligations.AddToIndex := by
  intro x s
  refine ⟨decodesTo_encode (i := .addI x) nofun, _, exec_addI s x, ?_, ?_, advance_rule (changesOnlyIn_addToI s x)⟩
  · rw [State.advance_i, addToI_i]
    exact BitVec.toNat_ofNat _ 16
  · rw [State.getV_advance, getV_addToI]
    cases s.cfg.addIVf with
    | carry16 | overflow12 => exact flagByte_decide _
    | unchanged => rfl

end Sys2Proof.Machine
end

section
/-! PROOFS. Memory and register transfer: the two address checks, the register ranges, and O38 to O45
(43_transfer.md, 20_memory.md sections 3 and 5). -/

namespace Sys2Proof.Machine

variable {s t u : State}

/-! ### Copies and addresses -/

theorem exec_ldReg (x y : Reg) (s : State) : exec (.ldReg x y) s = .next ((s.setV x (s.getV y)).advance 2) := rfl

theorem exec_ldI (nnn : Addr12) (s : State) : exec (.ldI nnn) s = .next ((s.setI (absTarget nnn)).advance 2) := rfl

theorem exec_ldF (x : Reg) (s : State) :
    exec (.ldF x) s = .next ((s.setI (fontAddress s.cfg (s.getV x))).advance 2) := rfl

theorem toNat_fontAddress (c : Config) (v : Byte) :
    (fontAddress c v).toNat = c.fontBase.val + 5 * (v.toNat % 16) := by
  have := c.fontBase.isLt
  rw [fontAddress, BitVec.toNat_ofNat]
  omega

/-- Settles O38: a write of one register. -/
theorem copiesRegister : Obligations.CopiesRegister := fun x y s =>
  ⟨decodesTo_encode (i := .ldReg x y) nofun, _, exec_ldReg x y s, setV_rule s x _⟩

/-- Settles O39: a write of I with the zero-extended address. -/
theorem loadsIndex : Obligations.LoadsIndex := by
  intro nnn s
  obtain ⟨hi, hend⟩ := setI_rule s (absTarget nnn)
  exact ⟨decodesTo_encode (i := .ldI nnn) nofun, _, exec_ldI nnn s,
    (congrArg _ hi).trans (toNat_absTarget nnn), hend⟩

/-- Settles O40: a write of I with the glyph's address, which fits in 16 bits for every place of the font. -/
theorem loadsDigitAddress : Obligations.LoadsDigitAddress := by
  intro x s
  obtain ⟨hi, hend⟩ := setI_rule s (fontAddress s.cfg (s.getV x))
  exact ⟨decodesTo_encode (i := .ldF x) nofun, _, exec_ldF x s,
    (congrArg _ hi).trans (toNat_fontAddress _ _), hend⟩

/-! ### The address checks (20_memory.md R57, R59, R60) -/

theorem readFault_eq_none {base n : Nat} (h : n = 0 ∨ base + n ≤ 4096) : readFault base n = none := by
  rw [readFault, outOfRange, memSize, if_neg (by omega)]
  rfl

theorem readFault_of_past {base n : Nat} (hn : 0 < n) (h : 4096 < base + n) :
    readFault base n = some (.addressOutOfRange, max base 4096) := by
  rw [readFault, outOfRange, memSize, if_pos ⟨hn, h⟩]
  rfl

theorem writeFault_of_past (c : Config) {base n : Nat} (hn : 0 < n) (h : 4096 < base + n) :
    writeFault c base n = some (.addressOutOfRange, max base 4096) := by
  rw [writeFault, readFault_of_past hn h]
  rfl

theorem writeFault_of_reserved {c : Config} {base n : Nat} (hn : 0 < n) (h : base + n ≤ 4096) (hbase : base < 512)
    (hc : c.lowMemoryWrite = .fault) : writeFault c base n = some (.reservedMemoryWrite, base) := by
  rw [writeFault, readFault_eq_none (.inr h), reservedWrite, programBase, if_pos ⟨hc, hn, hbase⟩]
  rfl

/-- A store is allowed exactly where its check finds no fault. -/
theorem writeFault_eq_none_iff {c : Config} {base n : Nat} (hn : 0 < n) :
    writeFault c base n = none ↔ base + n ≤ 4096 ∧ (512 ≤ base ∨ c.lowMemoryWrite = .write) := by
  by_cases hpast : base + n ≤ 4096
  · have hmode : c.lowMemoryWrite = .fault ∨ c.lowMemoryWrite = .write := by
      cases c.lowMemoryWrite <;> simp
    rcases hmode with hc | hc
    · by_cases hbase : base < 512
      · simp [writeFault_of_reserved hn hpast hbase hc, hc, hbase]
      · simp [writeFault, readFault_eq_none (.inr hpast), reservedWrite, programBase, hpast, hbase]
        omega
    · simp [writeFault, readFault_eq_none (.inr hpast), reservedWrite, hpast, hc]
  · simp [writeFault_of_past c hn (Nat.lt_of_not_le hpast), hpast]

/-! ### The meanings, by the outcome of the check -/

theorem exec_ldB_of_fault {x : Reg} {f : FaultKind} {a : Nat} (h : writeFault s.cfg s.i.toNat 3 = some (f, a)) :
    exec (.ldB x) s = .next (s.raise f (some (encode (.ldB x))) (some a)) := by
  simp only [exec, execLdB, h]

theorem exec_ldB_of_allowed {x : Reg} (h : writeFault s.cfg s.i.toNat 3 = none) :
    exec (.ldB x) s = .next ((s.writeBytes s.i.toNat (bcdDigits (s.getV x))).advance 2) := by
  simp only [exec, execLdB, h]

theorem exec_saveReg_of_fault {x : Reg} {f : FaultKind} {a : Nat}
    (h : writeFault s.cfg s.i.toNat (x.toNat + 1) = some (f, a)) :
    exec (.saveReg x) s = .next (s.raise f (some (encode (.saveReg x))) (some a)) := by
  simp only [exec, execSaveReg, h]

theorem exec_saveReg_of_allowed {x : Reg} (h : writeFault s.cfg s.i.toNat (x.toNat + 1) = none) :
    exec (.saveReg x) s =
      .next (((s.writeBytes s.i.toNat (s.getVs 0 (x.toNat + 1))).updateI x).advance 2) := by
  simp only [exec, execSaveReg, h]

theorem exec_loadReg_of_fault {x : Reg} {f : FaultKind} {a : Nat}
    (h : readFault s.i.toNat (x.toNat + 1) = some (f, a)) :
    exec (.loadReg x) s = .next (s.raise f (some (encode (.loadReg x))) (some a)) := by
  simp only [exec, execLoadReg, h]

theorem exec_loadReg_of_allowed {x : Reg} (h : readFault s.i.toNat (x.toNat + 1) = none) :
    exec (.loadReg x) s =
      .next (((s.setVs 0 (s.readBytes s.i.toNat (x.toNat + 1))).updateI x).advance 2) := by
  simp only [exec, execLoadReg, h]

theorem exec_drw_of_fault {x y : Reg} {n : Nibble} {f : FaultKind} {a : Nat}
    (h : readFault s.i.toNat n.toNat = some (f, a)) :
    exec (.drw x y n) s = .next (s.raise f (some (encode (.drw x y n))) (some a)) := by
  simp only [exec, execDrw, h]

/-! ### Register ranges and I -/

/-- `IUpdate` does what `RANGE_I_MODE` says, seen from an earlier state with the same I and configuration. -/
theorem rangeI_updateI (x : Reg) (hcfg : t.cfg = s.cfg) (hi : t.i = s.i) : RangeI x s ((t.updateI x).advance 2) := by
  rw [RangeI, State.advance_i, State.updateI, hcfg, hi]
  cases s.cfg.rangeIMode with
  | unchanged => exact hi
  | addXPlus1 | addX => exact BitVec.toNat_ofNat _ 16

theorem updateI_advance_rule (x : Reg) (hpc : t.pc = s.pc) (hrun : t.run = s.run) :
    AdvancesBy 2 s ((t.updateI x).advance 2) :=
  advancesBy_advance ((t.updateI_pc x).trans hpc) ((t.updateI_run x).trans hrun)

theorem changesOnlyIn_updateI_advance (t : State) (x : Reg) :
    ChangesOnlyIn [.i, .pc, .run] t ((t.updateI x).advance 2) :=
  (changesOnlyIn_updateI t x).trans (changesOnlyIn_advance _ 2)

/-- The byte that a SAVEREG from V0 on writes for a register is that register's. -/
theorem readByte_writeBytes_getVs (s : State) (a : Nat) {x r : Reg} (hr : r.toNat ≤ x.toNat) :
    (s.writeBytes a (s.getVs 0 (x.toNat + 1))).readByte (a + r.toNat) = s.getV r := by
  rw [State.readByte_writeBytes, State.getVs_length, if_pos ⟨by omega, by omega⟩, Nat.add_sub_cancel_left,
    State.getVs_getD _ _ _ _ (by omega), Nat.zero_add, BitVec.ofNat_toNat, BitVec.setWidth_eq]

/-- The value that a LOADREG from V0 on gives a register is that register's byte. -/
theorem getV_setVs_readBytes (s : State) (a : Nat) {x r : Reg} (hr : r.toNat ≤ x.toNat) :
    (s.setVs 0 (s.readBytes a (x.toNat + 1))).getV r = s.readByte (a + r.toNat) := by
  have hx := x.isLt
  rw [State.getV_setVs _ _ _ (by rw [State.readBytes_length]; omega), State.readBytes_length,
    if_pos ⟨by omega, by omega⟩, Nat.sub_zero, State.readBytes_getD _ _ _ _ (by omega)]

/-! ### The obligations -/

/-- A byte below its base holds any digit. -/
theorem toNat_ofNat_of_lt {n : Nat} (h : n < 256) : (BitVec.ofNat 8 n).toNat = n := by
  rw [BitVec.toNat_ofNat, Nat.mod_eq_of_lt h]

/-- Settles O41: the three digits and the frame of their write, and the faults by their checks. -/
theorem storesBcd : Obligations.StoresBcd := by
  intro x s
  have hv := (s.getV x).isLt
  refine ⟨decodesTo_encode (i := .ldB x) nofun, fun h => ?_, fun h => ?_, fun hi hc => ?_⟩
  · refine ⟨_, exec_ldB_of_allowed ((writeFault_eq_none_iff (by decide)).2 h), ?_, ?_, ?_,
      advancesBy_advance (State.writeBytes_pc s _ _) (State.writeBytes_run s _ _),
      ((changesOnly_writeBytes s _ _).trans (changesOnlyIn_advance _ 2)).mono fun _ => Or.symm⟩
    all_goals
      rw [State.readByte_advance, State.readByte_writeBytes, if_pos (by simp [bcdDigits])]
      simp only [bcdDigits, Nat.sub_self, Nat.add_sub_cancel_left]
      exact toNat_ofNat_of_lt (by omega)
  · exact ⟨_, _, exec_ldB_of_fault (writeFault_of_past s.cfg (by decide) (by omega)), entersFault_raise s _ _ _⟩
  · exact ⟨_, _, exec_ldB_of_fault (writeFault_of_reserved (by decide) (by omega) hi hc), entersFault_raise s _ _ _⟩

/-- Settles O42: the registers written to memory, then `IUpdate`, then the advance. -/
theorem savesRegisters : Obligations.SavesRegisters := by
  intro x s
  refine ⟨decodesTo_encode (i := .saveReg x) nofun, fun h => ?_⟩
  refine ⟨_, exec_saveReg_of_allowed ((writeFault_eq_none_iff (by omega)).2 h), fun r hr => ?_,
    rangeI_updateI x (State.writeBytes_cfg s _ _) (State.writeBytes_i s _ _),
    updateI_advance_rule x (State.writeBytes_pc s _ _) (State.writeBytes_run s _ _), ?_⟩
  · rw [State.readByte_advance, State.readByte_updateI, readByte_writeBytes_getVs s _ hr]
  · have hframe := (changesOnly_writeBytes s s.i.toNat (s.getVs 0 (x.toNat + 1))).trans
      (changesOnlyIn_updateI_advance _ x)
    rw [State.getVs_length] at hframe
    exact hframe.mono fun _ => Or.symm

/-- Settles O43: the registers read from memory, then `IUpdate`, then the advance. -/
theorem loadsRegisters : Obligations.LoadsRegisters := by
  intro x s
  refine ⟨decodesTo_encode (i := .loadReg x) nofun, fun h => ?_⟩
  refine ⟨_, exec_loadReg_of_allowed (readFault_eq_none (.inr h)), fun r hr => ?_,
    rangeI_updateI x (State.setVs_cfg s _ _) (State.setVs_i s _ _),
    updateI_advance_rule x (State.setVs_pc s _ _) (State.setVs_run s _ _), ?_⟩
  · rw [State.getV_advance, State.getV_updateI, getV_setVs_readBytes s _ hr]
  · have hx := x.isLt
    have hframe := (changesOnly_setVs s (s.readBytes s.i.toNat (x.toNat + 1))
      (by rw [State.readBytes_length]; omega)).trans (changesOnlyIn_updateI_advance _ x)
    simp only [State.readBytes_length, Nat.lt_succ_iff] at hframe
    exact hframe.mono fun _ => Or.symm

/-- Settles O44: the LOADREG reads, register by register, the byte that the SAVEREG wrote. -/
theorem saveThenLoadRestores : Obligations.SaveThenLoadRestores := by
  intro x s t u hallowed hsave hi hmem
  obtain ⟨t', hsave', hbytes, -⟩ := (savesRegisters x s).2 hallowed
  obtain ⟨hrange, -⟩ := hallowed
  rw [hsave] at hsave'
  injection hsave' with ht
  obtain ⟨w, hload, hregs, -⟩ := (loadsRegisters x u).2 (by rw [hi]; omega)
  refine ⟨w, hload, fun r hr => ?_⟩
  rw [hregs r hr, hmem, hi, ht, hbytes r hr]

/-- Settles O45: the range check comes first and reports the larger of I and 4096, the reserved region second. -/
theorem rangeFaultsReportTheLowestAddress : Obligations.RangeFaultsReportTheLowestAddress := by
  intro x y n s
  have hx := x.isLt
  refine ⟨fun h => ⟨_, exec_ldB_of_fault (writeFault_of_past s.cfg (by decide) h), entersFault_raise s _ _ _⟩,
    fun h => ⟨⟨_, exec_saveReg_of_fault (writeFault_of_past s.cfg (by omega) h), entersFault_raise s _ _ _⟩,
      ⟨_, exec_loadReg_of_fault (readFault_of_past (by omega) h), entersFault_raise s _ _ _⟩⟩,
    fun hn h => ⟨_, exec_drw_of_fault (readFault_of_past hn h), entersFault_raise s _ _ _⟩,
    fun hi hc => ⟨⟨_, exec_ldB_of_fault (writeFault_of_reserved (by decide) (by omega) hi hc),
        entersFault_raise s _ _ _⟩,
      ⟨_, exec_saveReg_of_fault (writeFault_of_reserved (by omega) (by omega) hi hc), entersFault_raise s _ _ _⟩⟩⟩

end Sys2Proof.Machine
end

section
/-! PROOFS. Random, timers and input: the host draws, the write of ST and the key skips, and O46 to O51
(44_random_timers_input.md). -/

namespace Sys2Proof.Machine

variable {s t : State}

/-! ### RND -/

theorem drawRandom_of_pending {r : Byte} {rs : List Byte} (h : s.host.randoms = r :: rs) :
    s.drawRandom = (r, s.setHost { s.host with randoms := rs }) := by
  simp only [State.drawRandom, h]

theorem drawRandom_of_none (h : s.host.randoms = []) :
    s.drawRandom = (Config.freeByte s.host.drawn, s.setHost { s.host with drawn := s.host.drawn + 1 }) := by
  simp only [State.drawRandom, h]

theorem exec_rnd (x : Reg) (nn : Byte) (s : State) :
    exec (.rnd x nn) s = .next ((s.drawRandom.2.setV x (s.drawRandom.1 &&& nn)).advance 2) := rfl

theorem changesOnlyIn_drawRandom_setV (s : State) (x : Reg) (b : Byte) :
    ChangesOnlyIn [.randoms, .drawn, .reg x] s (s.drawRandom.2.setV x b) :=
  (changesOnlyIn_drawRandom s).trans (changesOnlyIn_setV _ x b)

/-- Settles O46: V[x] is the draw under the mask, whichever draw it is. -/
theorem randomIsMasked : Obligations.RandomIsMasked := by
  intro x nn s
  have hv : ((s.drawRandom.2.setV x (s.drawRandom.1 &&& nn)).advance 2).getV x = s.drawRandom.1 &&& nn := by
    rw [State.getV_advance, State.getV_setV_self]
  obtain ⟨hadv, hframe⟩ := advance_rule (n := 2) (changesOnlyIn_drawRandom_setV s x (s.drawRandom.1 &&& nn))
  refine ⟨decodesTo_encode (i := .rnd x nn) nofun, _, exec_rnd x nn s, fun r rs h => ?_, fun h => ?_, ?_, hadv,
    hframe.mono (by simp)⟩
  · rw [hv, State.advance_host, State.setV_host, drawRandom_of_pending h]
    exact ⟨rfl, rfl, rfl⟩
  · rw [hv, drawRandom_of_none h]
  · rw [hv, BitVec.and_assoc]
    simp

/-! ### DT -/

theorem exec_ldVxDt (x : Reg) (s : State) : exec (.ldVxDt x) s = .next ((s.setV x s.dt).advance 2) := rfl

theorem exec_ldDt (x : Reg) (s : State) : exec (.ldDt x) s = .next ((s.setDt (s.getV x)).advance 2) := rfl

/-- Settles O47: a write of one register, and a write of DT. -/
theorem delayTimerMoves : Obligations.DelayTimerMoves := fun x s =>
  ⟨decodesTo_encode (i := .ldVxDt x) nofun, decodesTo_encode (i := .ldDt x) nofun,
    ⟨_, exec_ldVxDt x s, setV_rule s x s.dt⟩,
    ⟨_, exec_ldDt x s, State.advance_dt _ 2, advance_rule (changesOnlyIn_setDt s _)⟩⟩

/-! ### ST and its port -/

/-- The SoundPort call of a write of ST that switches the tone. -/
def State.toneSwitch (s : State) : SoundCall := if s.st = 0 then .start Config.soundFreqHz else .stop

theorem writeSt_of_same {b : Byte} (h : s.st = 0 ↔ b = 0) : s.writeSt b = (true, s.setSt b) := by
  rw [State.writeSt, if_neg (by tauto), if_neg (by tauto)]

theorem writeSt_of_switch {b : Byte} (h : ¬ (s.st = 0 ↔ b = 0)) :
    s.writeSt b = ((s.setSt b).addSound s.toneSwitch).drawPortOk := by
  by_cases hst : s.st = 0
  · rw [State.writeSt, if_pos (by tauto), State.toneSwitch, if_pos hst]
  · rw [State.writeSt, if_neg (by tauto), if_pos (by tauto), State.toneSwitch, if_neg hst]

theorem writeSt_st (s : State) (b : Byte) : (s.writeSt b).2.st = b := by
  rw [s.writeSt_eq b]

/-- A write of ST that switches the tone: one call is logged, and the port's next outcome is the write's. -/
theorem writeSt_switch_rule {b : Byte} (h : ¬ (s.st = 0 ↔ b = 0)) :
    (s.writeSt b).1 = s.drawPortOk.1 ∧ (s.writeSt b).2.sound = s.sound ++ [s.toneSwitch] := by
  rw [writeSt_of_switch h]
  exact ⟨drawPortOk_congr rfl, State.drawPortOk_sound _⟩

theorem exec_ldSt_of_ok {x : Reg} (h : (s.writeSt (s.getV x)).1 = true) :
    exec (.ldSt x) s = .next ((s.writeSt (s.getV x)).2.advance 2) :=
  congrArg Host.Outcome.next (choice_of_ok h)

theorem exec_ldSt_of_failed {x : Reg} (h : (s.writeSt (s.getV x)).1 = false) :
    exec (.ldSt x) s =
      .next ((s.writeSt (s.getV x)).2.raise .soundPortFailure (some (encode (.ldSt x))) none) :=
  congrArg Host.Outcome.next (choice_of_failed h)

/-- Settles O48: without a switch of the tone it is a write of ST; with one, the outcome of its call decides between
the advance and the fault. -/
theorem soundTimerWrite : Obligations.SoundTimerWrite := by
  intro x s
  refine ⟨decodesTo_encode (i := .ldSt x) nofun, fun h => ?_, fun h => ?_⟩
  · have hw := writeSt_of_same h
    refine ⟨_, exec_ldSt_of_ok (by rw [hw]), ?_⟩
    rw [hw]
    exact ⟨State.advance_st _ 2, advance_rule (changesOnlyIn_setSt s _)⟩
  · obtain ⟨hok, hsound⟩ := writeSt_switch_rule h
    have hst := writeSt_st s (s.getV x)
    have hframe := changesOnlyIn_writeSt s (s.getV x)
    cases hport : s.drawPortOk.1 with
    | true =>
      obtain ⟨hadv, hframe'⟩ := advance_rule (n := 2) hframe
      exact ⟨_, exec_ldSt_of_ok (hok.trans hport), (State.advance_st _ 2).trans hst,
        (State.advance_sound _ 2).trans hsound, fun _ => ⟨hadv, hframe'⟩, nofun⟩
    | false =>
      have hpc := hframe .pc (by simp)
      exact ⟨_, exec_ldSt_of_failed (hok.trans hport), hst, hsound, nofun, fun _ =>
        ⟨congrArg (Run.faulted _ · _ _) hpc, hframe.trans (changesOnlyIn_raise _ _ _ _)⟩⟩

/-! ### Keys -/

section
variable (x : Reg) (want : Bool) (w : Word)

theorem exec_skp (s : State) : exec (.skp x) s = .next (s.keySkip x true (encode (.skp x))) := rfl

theorem exec_sknp (s : State) : exec (.sknp x) s = .next (s.keySkip x false (encode (.sknp x))) := rfl

theorem keySkip_of_past (h : 15 < (s.getV x).toNat) :
    s.keySkip x want w = s.raise .inputPortFailure (some w) (some (s.getV x).toNat) := by
  rw [State.keySkip, if_pos h]

theorem keySkip_of_failed (h : (s.getV x).toNat ≤ 15) (hport : s.drawPortOk.1 = false) :
    s.keySkip x want w = s.drawPortOk.2.raise .inputPortFailure (some w) (some (s.getV x).toNat) := by
  rw [State.keySkip, if_neg (Nat.not_lt.2 h)]
  generalize s.drawPortOk = outcome at hport ⊢
  obtain ⟨ok, u⟩ := outcome
  obtain rfl : ok = false := hport
  rfl

theorem keySkip_of_ok (h : (s.getV x).toNat ≤ 15) (hport : s.drawPortOk.1 = true) :
    s.keySkip x want w =
      s.drawPortOk.2.drawKeys.2.skipIf (s.drawPortOk.2.drawKeys.1.getLsbD (s.getV x).toNat == want) := by
  rw [State.keySkip, if_neg (Nat.not_lt.2 h)]
  generalize s.drawPortOk = outcome at hport ⊢
  obtain ⟨ok, u⟩ := outcome
  obtain rfl : ok = true := hport
  rfl

theorem keySkip_ok_rule (h : (s.getV x).toNat ≤ 15) (hport : s.drawPortOk.1 = true) :
    SkipsWhen (s.drawPortOk.2.drawKeys.1.getLsbD (s.getV x).toNat = want) s (s.keySkip x want w) ∧
      ChangesOnlyIn [.pc, .run, .portOks, .keys, .drawn] s (s.keySkip x want w) := by
  rw [keySkip_of_ok x want w h hport]
  exact ⟨skipsWhen_skipIf beq_iff_eq (by simp) (by simp),
    (((changesOnlyIn_drawPortOk s).trans (changesOnlyIn_drawKeys _)).trans (changesOnlyIn_skipIf _ _)).mono (by simp)⟩

theorem keySkip_failed_rule (h : (s.getV x).toNat ≤ 15) (hport : s.drawPortOk.1 = false) :
    (s.keySkip x want w).run = .faulted .inputPortFailure s.pc (some w) (some (s.getV x).toNat) ∧
      ChangesOnlyIn [.run, .portOks, .drawn] s (s.keySkip x want w) := by
  rw [keySkip_of_failed x want w h hport]
  exact ⟨congrArg (Run.faulted _ · _ _) s.drawPortOk_pc,
    ((changesOnlyIn_drawPortOk s).trans (changesOnlyIn_raise _ _ _ _)).mono (by simp)⟩

theorem keySkip_past_rule (h : 15 < (s.getV x).toNat) :
    EntersFault .inputPortFailure (some w) (some (s.getV x).toNat) s (s.keySkip x want w) := by
  rw [keySkip_of_past x want w h]
  exact entersFault_raise s _ _ _

end

/-- Settles O49: SKP and SKNP are one skip with either wanted key state. -/
theorem keySkips : Obligations.KeySkips := fun x s =>
  ⟨decodesTo_encode (i := .skp x) nofun, decodesTo_encode (i := .sknp x) nofun, fun h hport =>
    ⟨⟨_, exec_skp x s, keySkip_ok_rule x true _ h hport⟩, ⟨_, exec_sknp x s, keySkip_ok_rule x false _ h hport⟩⟩⟩

/-- Settles O50: a key index past 15 faults before the port is called, a failed port call after it. -/
theorem keySkipFaults : Obligations.KeySkipFaults := fun x s =>
  ⟨fun h => ⟨⟨_, exec_skp x s, keySkip_past_rule x true _ h⟩, ⟨_, exec_sknp x s, keySkip_past_rule x false _ h⟩⟩,
    fun h hport =>
      ⟨⟨_, exec_skp x s, keySkip_failed_rule x true _ h hport⟩,
        ⟨_, exec_sknp x s, keySkip_failed_rule x false _ h hport⟩⟩⟩

/-! ### The key wait -/

theorem exec_ldVxK (x : Reg) (s : State) : exec (.ldVxK x) s = .next (s.setRun (.waitingForKey x)) := rfl

/-- Settles O51: a write of `run`. -/
theorem keyWaitStarts : Obligations.KeyWaitStarts := fun x s =>
  ⟨decodesTo_encode (i := .ldVxK x) nofun, _, exec_ldVxK x s, rfl, changesOnlyIn_setRun s _⟩

end Sys2Proof.Machine
end

section
/-! PROOFS. Display: which pixels a draw flips and whether it collides, from one pixel to a whole sprite, and O55 to
O58 (45_display.md). -/

namespace Sys2Proof.Machine

variable {s t u : State}

/-! ### CLS -/

/-- A push draws the port's next outcome, whatever the screen. -/
theorem displayPush_setFb (s : State) (f : Framebuffer) : (s.setFb f).displayPush.1 = s.drawPortOk.1 :=
  drawPortOk_congr (s := s) (t := (s.setFb f).setShown f) rfl

/-- The state after CLS's push. -/
def State.pushCleared (s : State) : State := (s.setFb clearFb).displayPush.2

theorem exec_cls_of_ok (h : s.drawPortOk.1 = true) : exec .cls s = .next (s.pushCleared.advance 2) :=
  congrArg Host.Outcome.next (choice_of_ok ((displayPush_setFb s clearFb).trans h))

theorem exec_cls_of_failed (h : s.drawPortOk.1 = false) :
    exec .cls s = .next (s.pushCleared.raise .displayPortFailure (some (encode .cls)) none) :=
  congrArg Host.Outcome.next (choice_of_failed ((displayPush_setFb s clearFb).trans h))

theorem pushCleared_fb (s : State) : s.pushCleared.fb = clearFb := State.drawPortOk_fb _

theorem pushCleared_shown (s : State) : s.pushCleared.shown = some clearFb := State.drawPortOk_shown _

theorem changesOnlyIn_pushCleared (s : State) : ChangesOnlyIn [.fb, .shown, .portOks, .drawn] s s.pushCleared :=
  (changesOnlyIn_setFb s clearFb).trans (changesOnlyIn_displayPush _)

/-- Settles O55: the cleared screen is pushed, and the outcome decides between the advance and the fault. -/
theorem clearsScreen : Obligations.ClearsScreen := by
  intro s
  have hfb := pushCleared_fb s
  have hshown := pushCleared_shown s
  have hframe := changesOnlyIn_pushCleared s
  refine ⟨decodesTo_encode (i := .cls) nofun, ?_⟩
  cases hport : s.drawPortOk.1 with
  | true =>
    obtain ⟨hadv, hframe'⟩ := advance_rule (n := 2) hframe
    refine ⟨_, exec_cls_of_ok hport, fun x y _ _ => ?_, ?_, fun _ => ⟨hadv, hframe'⟩, nofun⟩
    · rw [State.advance_fb, hfb, pixel_clearFb]
    · rw [State.advance_shown, State.advance_fb, hshown, hfb]
  | false =>
    refine ⟨_, exec_cls_of_failed hport, fun x y _ _ => ?_, ?_, nofun, fun _ =>
      ⟨congrArg (Run.faulted _ · _ _) (hframe .pc (by simp)), hframe.trans (changesOnlyIn_raise _ _ _ _)⟩⟩
    · rw [State.raise_def, State.setRun_fb, hfb, pixel_clearFb]
    · rw [State.raise_def, State.setRun_shown, State.setRun_fb, hshown, hfb]

/-! ### Flipping a set of pixels -/

/-- From screen `f` to screen `g` exactly the pixels of `cover` flip, and `hit` says whether one of them was on. -/
structure Flips (f g : Framebuffer) (hit : Bool) (cover : Nat → Nat → Prop) : Prop where
  pixel_ne_iff : ∀ px py, px < 64 → py < 32 → (pixel g px py ≠ pixel f px py ↔ cover px py)
  hit_iff : hit = true ↔ ∃ px py, px < 64 ∧ py < 32 ∧ cover px py ∧ pixel f px py = true

section
variable {f g k : Framebuffer} {hit hit' : Bool} {cover cover' : Nat → Nat → Prop}

theorem Flips.refl (f : Framebuffer) : Flips f f false fun _ _ => False := ⟨by simp, by simp⟩

theorem Flips.congr (h : Flips f g hit cover) (hc : ∀ px py, px < 64 → py < 32 → (cover px py ↔ cover' px py)) :
    Flips f g hit cover' := by
  refine ⟨fun px py hx hy => (h.pixel_ne_iff px py hx hy).trans (hc px py hx hy), h.hit_iff.trans ?_⟩
  constructor
  · rintro ⟨px, py, hx, hy, hcov, hon⟩
    exact ⟨px, py, hx, hy, (hc px py hx hy).1 hcov, hon⟩
  · rintro ⟨px, py, hx, hy, hcov, hon⟩
    exact ⟨px, py, hx, hy, (hc px py hx hy).2 hcov, hon⟩

/-- Two sets without a common pixel, flipped one after the other, are their union flipped: the second finds its
pixels as the first did. -/
theorem Flips.trans (h : Flips f g hit cover) (h' : Flips g k hit' cover')
    (hdisj : ∀ px py, cover px py → ¬ cover' px py) :
    Flips f k (hit || hit') fun px py => cover px py ∨ cover' px py := by
  have hsame (px py) (hx : px < 64) (hy : py < 32) (hc : cover' px py) : pixel g px py = pixel f px py := by
    by_contra hne
    exact hdisj px py ((h.pixel_ne_iff px py hx hy).1 hne) hc
  constructor
  · intro px py hx hy
    have h1 := h.pixel_ne_iff px py hx hy
    have h2 := h'.pixel_ne_iff px py hx hy
    have hd := hdisj px py
    rw [← h1, ← h2] at hd ⊢
    revert hd
    cases pixel f px py <;> cases pixel g px py <;> cases pixel k px py <;> simp
  · rw [Bool.or_eq_true, h.hit_iff, h'.hit_iff]
    constructor
    · rintro (⟨px, py, hx, hy, hc, hon⟩ | ⟨px, py, hx, hy, hc, hon⟩)
      · exact ⟨px, py, hx, hy, .inl hc, hon⟩
      · exact ⟨px, py, hx, hy, .inr hc, (hsame px py hx hy hc).symm.trans hon⟩
    · rintro ⟨px, py, hx, hy, hc | hc, hon⟩
      · exact .inl ⟨px, py, hx, hy, hc, hon⟩
      · exact .inr ⟨px, py, hx, hy, hc, (hsame px py hx hy hc).trans hon⟩

end

/-- A toggle flips one pixel. -/
theorem flips_togglePixel (f : Framebuffer) (x y : Nat) :
    Flips f (togglePixel f x y).1 (togglePixel f x y).2 fun px py => x % 64 = px ∧ y % 32 = py := by
  constructor
  · intro px py hx hy
    rw [pixel_togglePixel, Nat.mod_eq_of_lt hx, Nat.mod_eq_of_lt hy]
    split_ifs with h
    · simp [h]
    · simp only [ne_eq, not_true_eq_false, false_iff]
      exact fun hc => h ⟨hc.1.symm, hc.2.symm⟩
  · rw [togglePixel_was, ← pixel_wrap]
    constructor
    · exact fun hon => ⟨_, _, Nat.mod_lt _ (by decide), Nat.mod_lt _ (by decide), ⟨rfl, rfl⟩, hon⟩
    · rintro ⟨px, py, -, -, ⟨rfl, rfl⟩, hon⟩
      exact hon

/-! ### A row of a sprite -/

/-- A 1 bit of `b` in one of the columns `cols`, drawn at (`cx`, `cy`), falls on the pixel (`px`, `py`). -/
def ColumnsCover (b : Byte) (cx cy : Nat) (cols : List Nat) (px py : Nat) : Prop :=
  ∃ i ∈ cols, b.getLsbD (7 - i) = true ∧ (cx + i) % 64 = px ∧ cy % 32 = py

/-- What `drawByte` does for one column. -/
def drawColumn (b : Byte) (x y : Nat) (acc : Framebuffer × Bool) (i : Nat) : Framebuffer × Bool :=
  if b.getLsbD (7 - i) then ((togglePixel acc.1 (x + i) y).1, acc.2 || (togglePixel acc.1 (x + i) y).2) else acc

/-- Distinct columns of a byte fall on distinct pixels, so the draw of some columns flips what they cover. -/
theorem flips_drawColumns (b : Byte) (x y : Nat) (cols : List Nat) (hnodup : cols.Nodup) (hlt : ∀ i ∈ cols, i < 8)
    (f : Framebuffer) (c : Bool) :
    ∃ hit, Flips f (cols.foldl (drawColumn b x y) (f, c)).1 hit (ColumnsCover b x y cols) ∧
      (cols.foldl (drawColumn b x y) (f, c)).2 = (c || hit) := by
  induction cols generalizing f c with
  | nil => exact ⟨false, (Flips.refl f).congr (by simp [ColumnsCover]), by simp⟩
  | cons i cols ih =>
    obtain ⟨hi, hnodup⟩ := List.nodup_cons.1 hnodup
    obtain ⟨hi8, hlt⟩ := List.forall_mem_cons.1 hlt
    by_cases hb : b.getLsbD (7 - i) = true
    · obtain ⟨hit, hflips, hacc⟩ :=
        ih hnodup hlt (togglePixel f (x + i) y).1 (c || (togglePixel f (x + i) y).2)
      refine ⟨(togglePixel f (x + i) y).2 || hit, ?_, ?_⟩
      · rw [List.foldl_cons, drawColumn, if_pos hb]
        refine ((flips_togglePixel f (x + i) y).trans hflips ?_).congr ?_
        · rintro px py ⟨hx, -⟩ ⟨j, hj, -, hjx, -⟩
          have hj8 := hlt j hj
          exact hi ((by omega : i = j) ▸ hj)
        · intro px py _ _
          simp [ColumnsCover, hb]
      · rw [List.foldl_cons, drawColumn, if_pos hb, hacc, Bool.or_assoc]
    · obtain ⟨hit, hflips, hacc⟩ := ih hnodup hlt f c
      rw [List.foldl_cons, drawColumn, if_neg hb]
      exact ⟨hit, hflips.congr fun px py _ _ => by simp [ColumnsCover, hb], hacc⟩

/-- A row flips what its eight columns cover. -/
theorem flips_drawByte (f : Framebuffer) (b : Byte) (x y : Nat) :
    Flips f (drawByte f b x y).1 (drawByte f b x y).2 (ColumnsCover b x y spriteColumns) := by
  obtain ⟨hit, hflips, hacc⟩ := flips_drawColumns b x y spriteColumns (by decide) (by decide) f false
  have hhit : (drawByte f b x y).2 = hit := hacc.trans (Bool.false_or hit)
  rw [hhit]
  exact hflips

/-! ### The rows of a sprite -/

/-- A sprite of `n + 1` rows covers what its first row covers and what the others cover, one row further down. -/
theorem spriteCovers_succ (row : Nat → Byte) (n cx cy px py : Nat) :
    SpriteCovers row (n + 1) cx cy px py ↔
      ColumnsCover (row 0) cx cy spriteColumns px py ∨
        SpriteCovers (fun r => row (r + 1)) n cx (cy + 1) px py := by
  have hcols (i : Nat) : i ∈ spriteColumns ↔ i < 8 := by
    simp only [spriteColumns, List.mem_cons, List.not_mem_nil, or_false]
    omega
  constructor
  · rintro ⟨r, i, hr, hi, hb, hx, hy⟩
    cases r with
    | zero => exact .inl ⟨i, (hcols i).2 hi, hb, hx, hy⟩
    | succ r => exact .inr ⟨r, i, by omega, hi, hb, hx, by rw [← hy]; congr 1; omega⟩
  · rintro (⟨i, hi, hb, hx, hy⟩ | ⟨r, i, hr, hi, hb, hx, hy⟩)
    · exact ⟨0, i, by omega, (hcols i).1 hi, hb, hx, hy⟩
    · exact ⟨r + 1, i, by omega, hi, hb, hx, by rw [← hy]; congr 1; omega⟩

theorem spriteCovers_congr {row row' : Nat → Byte} {n : Nat} (h : ∀ r, r < n → row r = row' r) (cx cy px py : Nat) :
    SpriteCovers row n cx cy px py ↔ SpriteCovers row' n cx cy px py := by
  constructor
  · rintro ⟨r, i, hr, hi, hb, hxy⟩
    exact ⟨r, i, hr, hi, h r hr ▸ hb, hxy⟩
  · rintro ⟨r, i, hr, hi, hb, hxy⟩
    exact ⟨r, i, hr, hi, (h r hr).symm ▸ hb, hxy⟩

/-- Up to 32 rows fall on distinct rows of the screen: a first row and the rest of a sprite compose. -/
theorem Flips.sprite_succ {f g k : Framebuffer} {hit hit' : Bool} {row : Nat → Byte} {n cx cy : Nat} (hn : n < 32)
    (h : Flips f g hit (ColumnsCover (row 0) cx cy spriteColumns))
    (h' : Flips g k hit' (SpriteCovers (fun r => row (r + 1)) n cx (cy + 1))) :
    Flips f k (hit || hit') (SpriteCovers row (n + 1) cx cy) := by
  refine (h.trans h' ?_).congr fun px py _ _ => (spriteCovers_succ row n cx cy px py).symm
  rintro px py ⟨i, -, -, -, hy⟩ ⟨r, j, hr, -, -, -, hy'⟩
  omega

theorem Flips.sprite_one {f g : Framebuffer} {hit : Bool} {row : Nat → Byte} {cx cy : Nat}
    (h : Flips f g hit (ColumnsCover (row 0) cx cy spriteColumns)) : Flips f g hit (SpriteCovers row 1 cx cy) := by
  refine h.congr fun px py _ _ => (or_iff_left ?_).symm.trans (spriteCovers_succ row 0 cx cy px py).symm
  rintro ⟨r, i, hr, -⟩
  omega

/-! ### Drawing the rows in the state -/

/-- The state after a row is drawn and pushed. -/
def State.pushRow (s : State) (b : Byte) (x y : Nat) : State := (s.setFb (drawByte s.fb b x y).1).displayPush.2

theorem pushRow_fb (s : State) (b : Byte) (x y : Nat) : (s.pushRow b x y).fb = (drawByte s.fb b x y).1 :=
  State.drawPortOk_fb _

theorem pushRow_shown (s : State) (b : Byte) (x y : Nat) : (s.pushRow b x y).shown = some (s.pushRow b x y).fb := by
  rw [pushRow_fb]
  exact State.drawPortOk_shown _

theorem pushRow_host (s : State) (b : Byte) (x y : Nat) : (s.pushRow b x y).host = s.drawPortOk.2.host :=
  drawPortOk_host_congr rfl

theorem drawRows_cons_of_ok (x y : Nat) (c : Bool) (b : Byte) (bs : List Byte) (h : s.drawPortOk.1 = true) :
    s.drawRows x y c (b :: bs) = (s.pushRow b x y).drawRows x (y + 1) (c || (drawByte s.fb b x y).2) bs := by
  rw [State.drawRows, State.pushRow]
  exact choice_of_ok ((displayPush_setFb s _).trans h)

theorem drawRows_cons_of_failed (x y : Nat) (c : Bool) (b : Byte) (bs : List Byte) (h : s.drawPortOk.1 = false) :
    s.drawRows x y c (b :: bs) = (s.pushRow b x y, none) := by
  rw [State.drawRows, State.pushRow]
  exact choice_of_failed ((displayPush_setFb s _).trans h)

/-- Whether the next port calls succeed depends on the host inputs alone. -/
theorem nextPortsOk_congr {n : Nat} (h : t.host = s.host) : t.nextPortsOk n ↔ s.nextPortsOk n := by
  induction n generalizing s t with
  | zero => exact Iff.rfl
  | succ n ih =>
    rw [State.nextPortsOk, State.nextPortsOk, drawPortOk_congr h, ih (drawPortOk_host_congr h)]

theorem afterPorts_host_congr {n : Nat} (h : t.host = s.host) : (t.afterPorts n).host = (s.afterPorts n).host := by
  induction n generalizing s t with
  | zero => exact h
  | succ n ih => exact ih (drawPortOk_host_congr h)

/-- With every push accepted, all the rows are drawn. -/
theorem drawRows_of_ok {bs : List Byte} {x y : Nat} {c : Bool} (hlen : bs.length ≤ 32)
    (hok : s.nextPortsOk bs.length) :
    ∃ hit, (s.drawRows x y c bs).2 = some (c || hit) ∧
      Flips s.fb (s.drawRows x y c bs).1.fb hit (SpriteCovers (bs.getD · 0) bs.length x y) := by
  induction bs generalizing s y c with
  | nil =>
    refine ⟨false, by simp [State.drawRows], (Flips.refl s.fb).congr fun px py _ _ => ?_⟩
    simp [SpriteCovers]
  | cons b bs ih =>
    obtain ⟨hport, hok⟩ := hok
    rw [List.length_cons] at hlen
    obtain ⟨hit, hres, hflips⟩ := ih (s := s.pushRow b x y) (y := y + 1) (c := c || (drawByte s.fb b x y).2)
      (by omega) ((nextPortsOk_congr (pushRow_host s b x y)).2 hok)
    rw [drawRows_cons_of_ok x y c b bs hport]
    rw [pushRow_fb] at hflips
    exact ⟨_, hres.trans (congrArg some (Bool.or_assoc _ _ _)),
      Flips.sprite_succ (row := ((b :: bs).getD · 0)) (by omega) (flips_drawByte s.fb b x y) hflips⟩

/-- After a draw of at least one row the last snapshot is the screen. -/
theorem drawRows_shown (b : Byte) (bs : List Byte) (s : State) (x y : Nat) (c : Bool) :
    (s.drawRows x y c (b :: bs)).1.shown = some (s.drawRows x y c (b :: bs)).1.fb := by
  induction bs generalizing s b y c with
  | nil =>
    cases h : s.drawPortOk.1 with
    | true => rw [drawRows_cons_of_ok x y c b [] h]; exact pushRow_shown s b x y
    | false => rw [drawRows_cons_of_failed x y c b [] h]; exact pushRow_shown s b x y
  | cons b' bs ih =>
    cases h : s.drawPortOk.1 with
    | true => rw [drawRows_cons_of_ok x y c b _ h]; exact ih b' _ _ _
    | false => rw [drawRows_cons_of_failed x y c b _ h]; exact pushRow_shown s b x y

/-- When the push after row `k` is the first to fail, the rows up to it are drawn. -/
theorem drawRows_of_failed {bs : List Byte} {x y : Nat} {c : Bool} {k : Nat} (hlen : bs.length ≤ 32)
    (hk : k < bs.length) (hok : s.nextPortsOk k) (hfail : (s.afterPorts k).drawPortOk.1 = false) :
    ∃ hit, (s.drawRows x y c bs).2 = none ∧
      Flips s.fb (s.drawRows x y c bs).1.fb hit (SpriteCovers (bs.getD · 0) (k + 1) x y) := by
  induction k generalizing s y c bs with
  | zero =>
    obtain ⟨b, bs, rfl⟩ := List.exists_cons_of_length_pos hk
    rw [drawRows_cons_of_failed (s := s) x y c b bs hfail, pushRow_fb]
    exact ⟨_, rfl, (flips_drawByte s.fb b x y).sprite_one (row := ((b :: bs).getD · 0))⟩
  | succ k ih =>
    obtain ⟨b, bs, rfl⟩ := List.exists_cons_of_length_pos (Nat.zero_lt_of_lt hk)
    obtain ⟨hport, hok⟩ := hok
    have hhost := pushRow_host s b x y
    rw [List.length_cons] at hlen hk
    obtain ⟨hit, hres, hflips⟩ := ih (s := s.pushRow b x y) (y := y + 1) (c := c || (drawByte s.fb b x y).2)
      (bs := bs) (by omega) (by omega) ((nextPortsOk_congr hhost).2 hok)
      ((drawPortOk_congr (afterPorts_host_congr hhost)).trans hfail)
    rw [drawRows_cons_of_ok x y c b bs hport]
    rw [pushRow_fb] at hflips
    exact ⟨_, hres,
      Flips.sprite_succ (row := ((b :: bs).getD · 0)) (by omega) (flips_drawByte s.fb b x y) hflips⟩

/-! ### DRW -/

/-- The rows of a DRW, drawn and pushed, with the collision or none where a push failed. -/
def State.drawSprite (s : State) (x y : Reg) (n : Nibble) : State × Option Bool :=
  s.drawRows (s.getV x).toNat (s.getV y).toNat false (s.readBytes s.i.toNat n.toNat)

section
variable {x y : Reg} {n : Nibble}

theorem exec_drw_of_ok {c : Bool} (hread : readFault s.i.toNat n.toNat = none)
    (h : (s.drawSprite x y n).2 = some c) :
    exec (.drw x y n) s = .next (((s.drawSprite x y n).1.setFlag c).advance 2) := by
  simp only [exec, execDrw, hread]
  rw [State.drawSprite] at h ⊢
  generalize s.drawRows _ _ _ _ = w at h ⊢
  obtain ⟨u, r⟩ := w
  obtain rfl : r = some c := h
  rfl

theorem exec_drw_of_failed (hread : readFault s.i.toNat n.toNat = none) (h : (s.drawSprite x y n).2 = none) :
    exec (.drw x y n) s =
      .next ((s.drawSprite x y n).1.raise .displayPortFailure (some (encode (.drw x y n))) none) := by
  simp only [exec, execDrw, hread]
  rw [State.drawSprite] at h ⊢
  generalize s.drawRows _ _ _ _ = w at h ⊢
  obtain ⟨u, r⟩ := w
  obtain rfl : r = none := h
  rfl

theorem changesOnlyIn_drawSprite : ChangesOnlyIn [.fb, .shown, .portOks, .drawn] s (s.drawSprite x y n).1 :=
  changesOnlyIn_drawRows _ s _ _ _

theorem readBytes_spriteRow {k r : Nat} (h : r < k) : (s.readBytes s.i.toNat k).getD r 0 = s.spriteRow r :=
  State.readBytes_getD s _ _ _ h

/-- With every push accepted, the sprite is drawn and its collision found. -/
theorem drawSprite_of_ok (hok : s.nextPortsOk n.toNat) :
    ∃ hit, (s.drawSprite x y n).2 = some hit ∧
      Flips s.fb (s.drawSprite x y n).1.fb hit
        (SpriteCovers s.spriteRow n.toNat (s.getV x).toNat (s.getV y).toNat) := by
  have hn := n.isLt
  have hlen := s.readBytes_length s.i.toNat n.toNat
  obtain ⟨hit, hres, hflips⟩ := drawRows_of_ok (s := s) (bs := s.readBytes s.i.toNat n.toNat)
    (x := (s.getV x).toNat) (y := (s.getV y).toNat) (c := false) (by omega) (by rwa [hlen])
  rw [hlen] at hflips
  exact ⟨hit, hres.trans (congrArg some (Bool.false_or hit)),
    hflips.congr fun px py _ _ => spriteCovers_congr (fun r hr => readBytes_spriteRow hr) _ _ px py⟩

theorem drawSprite_shown :
    (s.drawSprite x y n).1.shown = if n = 0 then s.shown else some (s.drawSprite x y n).1.fb := by
  rw [State.drawSprite]
  split_ifs with h
  · rw [h]
    rfl
  · obtain ⟨m, hm⟩ := Nat.exists_eq_succ_of_ne_zero (fun e => h (BitVec.eq_of_toNat_eq e) : n.toNat ≠ 0)
    rw [hm]
    exact drawRows_shown _ _ s _ _ _

/-- Settles O56: the rows flip exactly the covered pixels, and VF is then written with the collision. -/
theorem drawsSpriteByXor : Obligations.DrawsSpriteByXor := by
  intro x y n s
  refine ⟨decodesTo_encode (i := .drw x y n) nofun, fun hrange hok => ?_⟩
  have hread : readFault s.i.toNat n.toNat = none :=
    readFault_eq_none (hrange.imp_left fun h => by rw [h]; rfl)
  obtain ⟨hit, hres, hflips⟩ := drawSprite_of_ok (x := x) (y := y) hok
  have hvf : ((((s.drawSprite x y n).1.setFlag hit).advance 2).getV 15) = flagByte hit := by
    rw [State.getV_advance, State.getV_setFlag, if_pos rfl]
  obtain ⟨hadv, hframe⟩ := advance_rule (n := 2)
    ((changesOnlyIn_drawSprite (s := s) (x := x) (y := y) (n := n)).trans (changesOnlyIn_setFlag _ hit))
  refine ⟨_, exec_drw_of_ok hread hres, ?_, fun h => ?_, fun h => ?_, ?_, hadv, hframe.mono (by simp)⟩
  · rw [DrawsSprite, State.advance_fb, State.setFlag_fb]
    exact hflips.pixel_ne_iff
  · rw [hvf, hflips.hit_iff.2 h]
    rfl
  · rw [hvf, Bool.eq_false_iff.2 fun hhit => h (hflips.hit_iff.1 hhit)]
    rfl
  · rw [State.advance_shown, State.setFlag_shown, State.advance_fb, State.setFlag_fb]
    exact drawSprite_shown

/-- Settles O57: the rows up to the failed push are drawn, and the fault is raised from there. -/
theorem drawPushFailureKeepsRows : Obligations.DrawPushFailureKeepsRows := by
  intro x y n s k hrange hk hok hfail
  have hn := n.isLt
  have hlen := s.readBytes_length s.i.toNat n.toNat
  obtain ⟨hit, hres, hflips⟩ := drawRows_of_failed (s := s) (bs := s.readBytes s.i.toNat n.toNat)
    (x := (s.getV x).toNat) (y := (s.getV y).toNat) (c := false) (by omega) (by omega) hok hfail
  have hframe := changesOnlyIn_drawSprite (s := s) (x := x) (y := y) (n := n)
  refine ⟨_, exec_drw_of_failed (readFault_eq_none (.inr hrange)) hres,
    congrArg (Run.faulted _ · _ _) (hframe .pc (by simp)), ?_, hframe.trans (changesOnlyIn_raise _ _ _ _)⟩
  exact (hflips.congr fun px py _ _ =>
    spriteCovers_congr (fun r hr => readBytes_spriteRow (by omega)) _ _ px py).pixel_ne_iff

end

/-- Settles O58: both draws flip the same pixels, so a pixel comes back, and one found on by the second draw is one
that the first turned on. -/
theorem drawingTwiceRestoresTheScreen : Obligations.DrawingTwiceRestoresTheScreen := by
  intro x y n s t u hrange hoks hs hfb hi hx hy hmem hoku
  obtain ⟨t', hs', hdraw, -⟩ := (drawsSpriteByXor x y n s).2 hrange hoks
  rw [hs] at hs'
  injection hs' with ht
  subst ht
  obtain ⟨w, hw, hdraw', hcoll, hfree, -⟩ := (drawsSpriteByXor x y n u).2 (by rwa [hi]) hoku
  have hrow : u.spriteRow = s.spriteRow := by
    funext r
    rw [State.spriteRow, State.spriteRow, hi, hmem]
  simp only [DrawsSprite, hrow, hx, hy, hfb] at hdraw'
  simp only [SpriteCollides, hrow, hx, hy, hfb] at hcoll hfree
  refine ⟨w, hw, fb_ext fun px py hpx hpy => ?_, ?_⟩
  · have hflip := (hdraw' px py hpx hpy).trans (hdraw px py hpx hpy).symm
    revert hflip
    cases pixel s.fb px py <;> cases pixel t.fb px py <;> cases pixel w.fb px py <;> simp
  · have hon (px py) (hpx : px < 64) (hpy : py < 32) :
        (SpriteCovers s.spriteRow n.toNat (s.getV x).toNat (s.getV y).toNat px py ∧ pixel t.fb px py = true) ↔
          (pixel s.fb px py = false ∧ pixel t.fb px py = true) := by
      rw [← hdraw px py hpx hpy]
      cases pixel s.fb px py <;> cases pixel t.fb px py <;> simp
    constructor
    · intro hvf
      by_contra hnone
      have h0 : w.getV 15 = 0 := hfree fun ⟨px, py, hpx, hpy, hcov⟩ =>
        hnone ⟨px, py, hpx, hpy, (hon px py hpx hpy).1 hcov⟩
      rw [hvf] at h0
      exact absurd h0 (by decide)
    · rintro ⟨px, py, hpx, hpy, hcov⟩
      exact hcoll ⟨px, py, hpx, hpy, (hon px py hpx hpy).2 hcov⟩

end Sys2Proof.Machine
end

section
/-! PROOFS. The fetch, HALT, the Timer's steps and the events of a step, and O11, O12, O21, O52, O53 and O59
(40_cycle_loop.md, 60_exceptions.md section 4). -/

namespace Sys2Proof.Machine

variable {s t : State}

/-! ### The fetch (40_cycle_loop.md R101) -/

theorem wordOfBytes_eq_ofNat (hi lo : Byte) : wordOfBytes hi lo = BitVec.ofNat 16 (256 * hi.toNat + lo.toNat) := by
  apply BitVec.eq_of_toNat_eq
  have hhi := hi.isLt
  have hlo := lo.isLt
  rw [wordOfBytes, BitVec.toNat_append, ← Nat.shiftLeft_add_eq_or_of_lt hlo, Nat.shiftLeft_eq, BitVec.toNat_ofNat]
  omega

theorem fetch_of_lt (h : s.pc.toNat < 4095) :
    s.fetch = .ok (wordOfBytes (s.readByte s.pc.toNat) (s.readByte (s.pc.toNat + 1))) := by
  rw [State.fetch, if_neg (by omega), if_neg (by omega)]

theorem fetch_of_past (h : 4095 ≤ s.pc.toNat) :
    s.fetch = .error (if s.pc.toNat = 4095 then 4096 else s.pc.toNat) := by
  by_cases hpc : s.pc.toNat = 4095
  · rw [State.fetch, if_neg (by omega), if_pos hpc, if_pos hpc]
  · rw [State.fetch, if_pos (by omega), if_neg hpc]

/-- A word is fetched only from below 4095. -/
theorem pc_lt_of_fetch {w : Word} (h : s.fetch = .ok w) : s.pc.toNat < 4095 := by
  by_contra hpc
  rw [fetch_of_past (Nat.not_lt.1 hpc)] at h
  simp at h

theorem coreIteration_of_fetch_error {a : Nat} (h : s.fetch = .error a) :
    coreIteration s = .next (s.raise .addressOutOfRange none (some a)) := by
  simp only [coreIteration, h]

theorem coreIteration_of_decoded {w : Word} {i : Instr} (hfetch : s.fetch = .ok w)
    (hdecode : decode s.cfg.haltOnZero w = .ok i) : coreIteration s = exec i s := by
  simp only [coreIteration, hfetch, hdecode]

/-- Settles O11: the fetched word is the big-endian one, and the iteration runs the instruction it decodes to. -/
theorem stepRunsDecodedInstruction : Obligations.StepRunsDecodedInstruction := by
  intro s i hrun hcore hpc hdecode
  rw [← wordOfBytes_eq_ofNat] at hdecode
  refine ⟨(step_of_running_core hrun hcore).trans ?_, changesOnlyIn_drawEvent s⟩
  exact coreIteration_of_decoded (s.fetch_drawEvent.trans (fetch_of_lt hpc)) (by rwa [State.drawEvent_cfg])

/-- Settles O12: the fetch fails with the lowest address outside memory, and the fault is raised at once. -/
theorem fetchOutsideMemoryFaults : Obligations.FetchOutsideMemoryFaults := by
  intro s hrun hcore hpc
  refine ⟨_, (step_of_running_core hrun hcore).trans
    (coreIteration_of_fetch_error (s.fetch_drawEvent.trans (fetch_of_past hpc))), ?_, ?_⟩
  · rw [State.raise_def, State.setRun_run, State.drawEvent_pc]
  · exact ((changesOnlyIn_drawEvent s).trans (changesOnlyIn_raise _ _ _ _)).mono (by simp)

/-! ### HALT -/

theorem exec_halt_of_sentinel (h : s.cfg.haltOnZero = true) :
    exec .halt s = .next (s.setRun (.halted .haltSentinel)) := by
  simp only [exec, execHalt, h, if_true]

theorem exec_halt_of_invalid (h : s.cfg.haltOnZero = false) : exec .halt s = .next (invalidWord 0x0000 s) := by
  simp only [exec, execHalt, h, encode, Bool.false_eq_true, if_false]

/-- Settles O21: a write of `run`, or the invalid word 0000. -/
theorem haltStopsAtItsAddress : Obligations.HaltStopsAtItsAddress := fun s =>
  ⟨rfl, rfl, fun h => ⟨_, exec_halt_of_sentinel h, rfl, changesOnlyIn_setRun s _⟩, fun h =>
    ⟨_, exec_halt_of_invalid h, invalidWord_diag _ s, advancesBy_invalidWord _ rfl rfl, changesOnlyIn_invalidWord _ s⟩⟩

/-! ### The Timer's steps (60_exceptions.md R240-R244) -/

/-- A TickST that does not stop the tone is a write of ST. -/
theorem tickST_of_ne_one (h : s.st ≠ 1) : ∃ b, tickST s = s.setSt b ∧ b.toNat = s.st.toNat - 1 := by
  by_cases hpos : 0 < s.st.toNat
  · have hst : s.st ≠ 0 := fun e => by simp [e] at hpos
    have hne : s.st - 1 ≠ 0 := fun e => h (by rwa [sub_eq_zero] at e)
    refine ⟨s.st - 1, ?_, toNat_pred hpos⟩
    rw [tickST, if_pos hpos, writeSt_of_same (by simp only [hst, hne])]
  · exact ⟨s.st, by rw [tickST, if_neg hpos]; rfl, by omega⟩

section
variable (h : s.st = 1)
include h

theorem not_st_iff_zero : ¬ (s.st = 0 ↔ (0 : Byte) = 0) := by
  rw [h]
  decide

theorem tickST_of_ok (hport : s.drawPortOk.1 = true) : tickST s = (s.writeSt 0).2 := by
  have hok := (writeSt_switch_rule (not_st_iff_zero h)).1.trans hport
  have hb : s.st - 1 = 0 := by rw [h]; rfl
  rw [tickST, if_pos (by rw [h]; decide), hb]
  exact choice_of_ok hok

theorem tickST_of_failed (hport : s.drawPortOk.1 = false) :
    tickST s = (s.writeSt 0).2.raise .soundPortFailure none none := by
  have hok := (writeSt_switch_rule (not_st_iff_zero h)).1.trans hport
  have hb : s.st - 1 = 0 := by rw [h]; rfl
  rw [tickST, if_pos (by rw [h]; decide), hb]
  exact choice_of_failed hok

theorem writeSt_stop_sound : (s.writeSt 0).2.sound = s.sound ++ [.stop] := by
  rw [(writeSt_switch_rule (not_st_iff_zero h)).2, State.toneSwitch, if_neg (by rw [h]; decide)]

end

theorem step_of_event {e : Event} (hlive : s.live) (he : s.drawEvent.1 = e) : step s = takeEvent e s.drawEvent.2 := by
  rw [step_of_live hlive, he]

/-- Settles O59: each tick is one write, and only the tick from ST = 1 calls the port. -/
theorem timersTick : Obligations.TimersTick := by
  intro s hlive
  refine ⟨fun he => ?_, fun he hst => ?_, fun he hst => ?_⟩
  · obtain ⟨d, htick, hd⟩ := tickDT_eq s.drawEvent.2
    refine ⟨tickDT s.drawEvent.2, step_of_event hlive he, ?_, ?_⟩ <;> rw [htick]
    · rw [State.setDt_dt, hd, State.drawEvent_dt]
    · exact ((changesOnlyIn_drawEvent s).trans (changesOnlyIn_setDt _ d)).mono (by simp)
  · obtain ⟨b, htick, hb⟩ := tickST_of_ne_one (s := s.drawEvent.2) (by rwa [State.drawEvent_st])
    refine ⟨tickST s.drawEvent.2, step_of_event hlive he, ?_, ?_⟩ <;> rw [htick]
    · rw [State.setSt_st, hb, State.drawEvent_st]
    · exact ((changesOnlyIn_drawEvent s).trans (changesOnlyIn_setSt _ b)).mono (by simp)
  · have hst' : s.drawEvent.2.st = 1 := s.drawEvent_st.trans hst
    have hst0 := writeSt_st s.drawEvent.2 0
    have hsound := (writeSt_stop_sound hst').trans (congrArg (· ++ [SoundCall.stop]) s.drawEvent_sound)
    have hoff : (s.drawEvent.2.writeSt 0).2.soundOn = false := by rw [State.soundOn, hst0]; rfl
    have hframe := (changesOnlyIn_drawEvent s).trans (changesOnlyIn_writeSt s.drawEvent.2 0)
    refine ⟨tickST s.drawEvent.2, step_of_event hlive he, ?_⟩
    cases hport : s.drawEvent.2.drawPortOk.1 with
    | true =>
      rw [tickST_of_ok hst' hport]
      exact ⟨hst0, hoff, hsound, fun _ => hframe.mono (by simp), nofun⟩
    | false =>
      rw [tickST_of_failed hst' hport]
      exact ⟨hst0, hoff, hsound, nofun, fun _ =>
        ⟨congrArg (Run.faulted _ · _ _) (hframe .pc (by simp)),
          (hframe.trans (changesOnlyIn_raise _ _ _ _)).mono (by simp)⟩⟩

/-! ### The end of a key wait, and the events that are not enabled -/

theorem keyDownEvent_of_waiting {x : Reg} (k : Nibble) (h : s.run = .waitingForKey x) :
    keyDownEvent k s = ((s.setV x (k.setWidth 8)).setRun .running).advance 2 := by
  simp only [keyDownEvent, h]

theorem pollFailEvent_of_waiting {x : Reg} (h : s.run = .waitingForKey x) :
    pollFailEvent s = s.raise .inputPortFailure (some (encode (.ldVxK x))) none := by
  simp only [pollFailEvent, h]

theorem coreTurn_of_waiting {x : Reg} (h : s.run = .waitingForKey x) : coreTurn s = .next s := by
  simp only [coreTurn, h]

/-- Settles O52: the key is written, `run` set and PC advanced. -/
theorem keyDownCompletesTheWait : Obligations.KeyDownCompletesTheWait := by
  intro s x k hrun he
  refine ⟨keyDownEvent k s.drawEvent.2, step_of_event (.inr ⟨x, hrun⟩) he, ?_⟩
  rw [keyDownEvent_of_waiting k (s.drawEvent_run.trans hrun)]
  refine ⟨?_, advancedOrHalted_advance 2 s.drawEvent_pc rfl, ?_⟩
  · rw [State.getV_advance, State.getV_setRun, State.getV_setV_self]
    exact BitVec.toNat_setWidth_of_le (by decide)
  · exact ((((changesOnlyIn_drawEvent s).trans (changesOnlyIn_setV _ x _)).trans (changesOnlyIn_setRun _ _)).trans
      (changesOnlyIn_advance _ 2)).mono (by simp)

/-- Settles O53: a cancellation and a failed poll are writes of `run`; the other events leave the state as the draw of
the event left it. -/
theorem cancelAndPollFailure : Obligations.CancelAndPollFailure := by
  intro s
  have hdraw := changesOnlyIn_drawEvent s
  refine ⟨fun hlive he => ?_, fun x hrun he => ?_, fun x hrun he => ?_, fun hrun he => ?_⟩
  · exact ⟨_, step_of_event hlive he, rfl, (hdraw.trans (changesOnlyIn_setRun _ _)).mono (by simp)⟩
  · refine ⟨pollFailEvent s.drawEvent.2, step_of_event (.inr ⟨x, hrun⟩) he, ?_⟩
    rw [pollFailEvent_of_waiting (s.drawEvent_run.trans hrun)]
    exact ⟨congrArg (Run.faulted _ · _ _) s.drawEvent_pc,
      (hdraw.trans (changesOnlyIn_raise _ _ _ _)).mono (by simp)⟩
  · exact ⟨_, (step_of_event (.inr ⟨x, hrun⟩) he).trans (coreTurn_of_waiting (s.drawEvent_run.trans hrun)), hdraw⟩
  · have hnowait (x : Reg) : s.drawEvent.2.run ≠ .waitingForKey x := by
      rw [State.drawEvent_run, hrun]
      exact nofun
    refine ⟨s.drawEvent.2, ?_, hdraw⟩
    rcases he with he | ⟨k, he⟩
    · rcases pollFailEvent_cases s.drawEvent.2 with ⟨h, -⟩ | ⟨x, hx, -⟩
      · exact (step_of_event (.inl hrun) he).trans (congrArg _ h)
      · exact absurd hx (hnowait x)
    · rcases keyDownEvent_cases k s.drawEvent.2 with ⟨h, -⟩ | ⟨x, hx, -⟩
      · exact (step_of_event (.inl hrun) he).trans (congrArg _ h)
      · exact absurd hx (hnowait x)

end Sys2Proof.Machine
end

section
/-! PROOFS. What one instruction can change and how it can end, said once for all 35, and O14, O16, O17, O19 and O20. -/

namespace Sys2Proof.Machine

variable {s t : State}

/-- A meaning has one next state. -/
theorem exec_unique {i : Instr} {u : State} (h : exec i s = .next t) (hu : exec i s = .next u) : t = u :=
  Host.Outcome.next.inj (h.symm.trans hu)

/-! ### CALL, RET and HALT from any state -/

theorem exec_call_cases {nnn : Addr12} (h : exec (.call nnn) s = .next t) :
    (∃ _ : s.sp.toNat < 16,
        t = (s.setStack (s.sp + 1) (s.stack.set s.sp.toNat s.pc)).setPc (absTarget nnn)) ∨
      t = s.raise .stackOverflow (some (encode (.call nnn))) (some s.pc.toNat) := by
  rcases Nat.lt_trichotomy s.sp.toNat 16 with hsp | hsp | hsp
  · exact .inl ⟨hsp, exec_unique h (exec_call_of_free nnn hsp)⟩
  · exact .inr (exec_unique h (exec_call_of_full nnn hsp))
  · simp [exec, execCall, State.spLegal, Nat.not_le.2 hsp] at h

theorem exec_ret_cases (h : exec .ret s = .next t) :
    (∃ _ : 0 < s.sp.toNat ∧ s.sp.toNat ≤ 16,
        t = ((s.setStack (s.sp - 1) s.stack).setPc (s.stack[s.sp.toNat - 1]'(by omega))).advance 2) ∨
      (s.sp.toNat = 0 ∧ t = s.raise .stackUnderflow (some (encode .ret)) (some s.pc.toNat)) := by
  by_cases hsp : s.sp.toNat ≤ 16
  · rcases Nat.eq_zero_or_pos s.sp.toNat with h0 | hpos
    · exact .inr ⟨h0, exec_unique h (exec_ret_of_empty h0)⟩
    · exact .inl ⟨⟨hpos, hsp⟩, exec_unique h (exec_ret_of_used ⟨hpos, hsp⟩)⟩
  · simp [exec, execRet, State.spLegal, hsp] at h

theorem exec_halt_cases (h : exec .halt s = .next t) :
    (s.cfg.haltOnZero = true ∧ t = s.setRun (.halted .haltSentinel)) ∨ t = invalidWord 0x0000 s := by
  cases hz : s.cfg.haltOnZero with
  | true => exact .inl ⟨rfl, exec_unique h (exec_halt_of_sentinel hz)⟩
  | false => exact .inr (exec_unique h (exec_halt_of_invalid hz))

/-! ### The instructions with a check or a port call -/

theorem exec_cls_cases (h : exec .cls s = .next t) :
    t = s.pushCleared.advance 2 ∨ t = s.pushCleared.raise .displayPortFailure (some (encode .cls)) none := by
  cases hport : s.drawPortOk.1 with
  | true => exact .inl (exec_unique h (exec_cls_of_ok hport))
  | false => exact .inr (exec_unique h (exec_cls_of_failed hport))

theorem exec_drw_cases {x y : Reg} {n : Nibble} (h : exec (.drw x y n) s = .next t) :
    (∃ f a, t = s.raise f (some (encode (.drw x y n))) (some a)) ∨
      (∃ c, t = ((s.drawSprite x y n).1.setFlag c).advance 2) ∨
      t = (s.drawSprite x y n).1.raise .displayPortFailure (some (encode (.drw x y n))) none := by
  cases hread : readFault s.i.toNat n.toNat with
  | some fa => exact .inl ⟨_, _, exec_unique h (exec_drw_of_fault hread)⟩
  | none =>
    cases hres : (s.drawSprite x y n).2 with
    | some c => exact .inr (.inl ⟨c, exec_unique h (exec_drw_of_ok hread hres)⟩)
    | none => exact .inr (.inr (exec_unique h (exec_drw_of_failed hread hres)))

theorem exec_ldSt_cases {x : Reg} (h : exec (.ldSt x) s = .next t) :
    t = (s.writeSt (s.getV x)).2.advance 2 ∨
      t = (s.writeSt (s.getV x)).2.raise .soundPortFailure (some (encode (.ldSt x))) none := by
  cases hok : (s.writeSt (s.getV x)).1 with
  | true => exact .inl (exec_unique h (exec_ldSt_of_ok hok))
  | false => exact .inr (exec_unique h (exec_ldSt_of_failed hok))

theorem exec_ldB_cases {x : Reg} (h : exec (.ldB x) s = .next t) :
    (∃ f a, t = s.raise f (some (encode (.ldB x))) (some a)) ∨
      (s.storeAllowed 3 ∧ t = (s.writeBytes s.i.toNat (bcdDigits (s.getV x))).advance 2) := by
  cases hcheck : writeFault s.cfg s.i.toNat 3 with
  | some fa => exact .inl ⟨_, _, exec_unique h (exec_ldB_of_fault hcheck)⟩
  | none =>
    exact .inr ⟨(writeFault_eq_none_iff (by decide)).1 hcheck, exec_unique h (exec_ldB_of_allowed hcheck)⟩

theorem exec_saveReg_cases {x : Reg} (h : exec (.saveReg x) s = .next t) :
    (∃ f a, t = s.raise f (some (encode (.saveReg x))) (some a)) ∨
      (s.storeAllowed (x.toNat + 1) ∧
        t = ((s.writeBytes s.i.toNat (s.getVs 0 (x.toNat + 1))).updateI x).advance 2) := by
  cases hcheck : writeFault s.cfg s.i.toNat (x.toNat + 1) with
  | some fa => exact .inl ⟨_, _, exec_unique h (exec_saveReg_of_fault hcheck)⟩
  | none =>
    exact .inr ⟨(writeFault_eq_none_iff (by omega)).1 hcheck, exec_unique h (exec_saveReg_of_allowed hcheck)⟩

theorem exec_loadReg_cases {x : Reg} (h : exec (.loadReg x) s = .next t) :
    (∃ f a, t = s.raise f (some (encode (.loadReg x))) (some a)) ∨
      (s.i.toNat + x.toNat < 4096 ∧
        t = ((s.setVs 0 (s.readBytes s.i.toNat (x.toNat + 1))).updateI x).advance 2) := by
  by_cases hrange : s.i.toNat + x.toNat < 4096
  · exact .inr ⟨hrange, exec_unique h (exec_loadReg_of_allowed (readFault_eq_none (.inr hrange)))⟩
  · have hpast : 4096 < s.i.toNat + (x.toNat + 1) := by omega
    exact .inl ⟨_, _, exec_unique h (exec_loadReg_of_fault (readFault_of_past (by omega) hpast))⟩

theorem keySkip_cases (s : State) (x : Reg) (want : Bool) (w : Word) :
    s.keySkip x want w = s.raise .inputPortFailure (some w) (some (s.getV x).toNat) ∨
      s.keySkip x want w = s.drawPortOk.2.raise .inputPortFailure (some w) (some (s.getV x).toNat) ∨
      ∃ c, s.keySkip x want w = s.drawPortOk.2.drawKeys.2.skipIf c := by
  by_cases h : (s.getV x).toNat ≤ 15
  · cases hport : s.drawPortOk.1 with
    | true => exact .inr (.inr ⟨_, keySkip_of_ok x want w h hport⟩)
    | false => exact .inr (.inl (keySkip_of_failed x want w h hport))
  · exact .inl (keySkip_of_past x want w (Nat.lt_of_not_le h))

/-! ### What an instruction may change -/

/-- The parts that an instruction may change from the state `s` on. -/
def MayChange (s : State) : Instr → Part → Prop
  | .halt, p => p ∈ [.diag, .pc, .run]
  | .cls, p => p ∈ [.fb, .shown, .portOks, .drawn, .pc, .run]
  | .ret, p => p ∈ [.sp, .pc, .run]
  | .jp _, p | .jpV0 _, p => p ∈ [.pc]
  | .call _, p => p ∈ [.sp, .pc, .run] ∨ ∃ k, p = .slot k
  | .seImm _ _, p | .sneImm _ _, p | .seReg _ _, p | .sneReg _ _, p => p ∈ [.pc, .run]
  | .ldImm x _, p | .ldReg x _, p | .or x _, p | .and x _, p | .xor x _, p | .ldVxDt x, p => p ∈ [.reg x, .pc, .run]
  | .addImm x _, p => p ∈ [.reg x, .pc, .run] ∨ (s.cfg.addImmSetsVf = true ∧ p = .reg 15)
  | .addReg x _, p | .sub x _, p | .shr x _, p | .subn x _, p | .shl x _, p => p ∈ [.reg x, .reg 15, .pc, .run]
  | .ldI _, p | .ldF _, p => p ∈ [.i, .pc, .run]
  | .rnd x _, p => p ∈ [.randoms, .drawn, .reg x, .pc, .run]
  | .drw _ _ _, p => p ∈ [.fb, .shown, .portOks, .drawn, .reg 15, .pc, .run]
  | .skp _, p | .sknp _, p => p ∈ [.portOks, .drawn, .keys, .pc, .run]
  | .ldVxK _, p => p ∈ [.run]
  | .ldDt _, p => p ∈ [.dt, .pc, .run]
  | .ldSt _, p => p ∈ [.st, .sound, .portOks, .drawn, .pc, .run]
  | .addI _, p => p ∈ [.i, .pc, .run] ∨ (s.cfg.addIVf ≠ .unchanged ∧ p = .reg 15)
  | .ldB _, p => p ∈ [.pc, .run] ∨ (s.storeAllowed 3 ∧ ∃ k, k < 3 ∧ p = .byte (s.i.toNat + k))
  | .saveReg x, p =>
    p ∈ [.i, .pc, .run] ∨ (s.storeAllowed (x.toNat + 1) ∧ ∃ k, k < x.toNat + 1 ∧ p = .byte (s.i.toNat + k))
  | .loadReg x, p => p ∈ [.i, .pc, .run] ∨ ∃ r : Reg, r.toNat ≤ x.toNat ∧ p = .reg r

theorem changesOnlyIn_keySkip (s : State) (x : Reg) (want : Bool) (w : Word) :
    ChangesOnlyIn [.portOks, .drawn, .keys, .pc, .run] s (s.keySkip x want w) := by
  rcases keySkip_cases s x want w with h | h | ⟨c, h⟩ <;> rw [h]
  · exact (changesOnlyIn_raise s _ _ _).mono (by simp)
  · exact ((changesOnlyIn_drawPortOk s).trans (changesOnlyIn_raise _ _ _ _)).mono (by simp)
  · exact (((changesOnlyIn_drawPortOk s).trans (changesOnlyIn_drawKeys _)).trans (changesOnlyIn_skipIf _ c)).mono
      (by simp)

/-- A frame that names its parts, where more may change. -/
theorem ChangesOnlyIn.widen {ps : List Part} {may : Part → Prop} (h : ChangesOnlyIn ps s t)
    (hsub : ∀ p ∈ ps, may p) : ChangesOnly may s t := ChangesOnly.mono h hsub

/-- The frame of every instruction. -/
theorem exec_frame {i : Instr} (h : exec i s = .next t) : ChangesOnly (MayChange s i) s t := by
  cases i with
  | halt =>
    rcases exec_halt_cases h with ⟨-, rfl⟩ | rfl
    · exact (changesOnlyIn_setRun s _).mono (by simp)
    · exact changesOnlyIn_invalidWord _ s
  | cls =>
    rcases exec_cls_cases h with rfl | rfl
    · exact (changesOnlyIn_pushCleared s).trans (changesOnlyIn_advance _ 2)
    · exact ((changesOnlyIn_pushCleared s).trans (changesOnlyIn_raise _ _ _ _)).mono (by simp)
  | ret =>
    rcases exec_ret_cases h with ⟨-, rfl⟩ | ⟨-, rfl⟩
    · exact (((changesOnlyIn_setStack s _).trans (changesOnlyIn_setPc _ _)).trans (changesOnlyIn_advance _ 2)).mono
        (by simp)
    · exact (changesOnlyIn_raise s _ _ _).mono (by simp)
  | jp _ | jpV0 _ =>
    cases h
    exact changesOnlyIn_setPc s _
  | call _ =>
    rcases exec_call_cases h with ⟨hsp, rfl⟩ | rfl
    · exact ((changesOnlyIn_setStack_set s _ s.pc ⟨_, hsp⟩).trans (changesOnlyIn_setPc _ _)).widen (by simp [MayChange])
    · exact (changesOnlyIn_raise s _ _ _).widen (by simp [MayChange])
  | seImm _ _ | sneImm _ _ | seReg _ _ | sneReg _ _ =>
    cases h
    exact changesOnlyIn_skipIf s _
  | ldImm x _ | ldReg x _ | or x _ | and x _ | xor x _ | ldVxDt x =>
    cases h
    exact (setV_rule s x _).2.2
  | addImm x nn =>
    cases h
    cases hset : s.cfg.addImmSetsVf with
    | true => exact (setWithFlag_rule s x _ _).2.2.2.widen (by simp [MayChange, hset])
    | false => exact (setV_rule s x _).2.2.widen (by simp [MayChange])
  | addReg x _ | sub x _ | shr x _ | subn x _ | shl x _ =>
    cases h
    exact (setWithFlag_rule s x _ _).2.2.2
  | ldI _ | ldF _ =>
    cases h
    exact (setI_rule s _).2.2
  | rnd x _ =>
    cases h
    exact (changesOnlyIn_drawRandom_setV s x _).trans (changesOnlyIn_advance _ 2)
  | drw x y n =>
    have hdraw := changesOnlyIn_drawSprite (s := s) (x := x) (y := y) (n := n)
    rcases exec_drw_cases h with ⟨f, a, rfl⟩ | ⟨c, rfl⟩ | rfl
    · exact (changesOnlyIn_raise s _ _ _).mono (by simp)
    · exact (hdraw.trans (changesOnlyIn_setFlag _ c)).trans (changesOnlyIn_advance _ 2)
    · exact (hdraw.trans (changesOnlyIn_raise _ _ _ _)).mono (by simp)
  | skp x | sknp x =>
    cases h
    exact changesOnlyIn_keySkip s x _ _
  | ldVxK x =>
    cases h
    exact changesOnlyIn_setRun s _
  | ldDt x =>
    cases h
    exact (changesOnlyIn_setDt s _).trans (changesOnlyIn_advance _ 2)
  | ldSt x =>
    rcases exec_ldSt_cases h with rfl | rfl
    · exact (changesOnlyIn_writeSt s _).trans (changesOnlyIn_advance _ 2)
    · exact ((changesOnlyIn_writeSt s _).trans (changesOnlyIn_raise _ _ _ _)).mono (by simp)
  | addI x =>
    cases h
    rcases addToI_cases s x with ⟨f, hf, he⟩ | ⟨-, he⟩
    · have hmode : s.cfg.addIVf ≠ .unchanged := fun hu => by simp [hu, addIFlag] at hf
      exact ((changesOnlyIn_addToI s x).trans (changesOnlyIn_advance _ 2)).widen (by simp [MayChange, hmode])
    · refine ChangesOnlyIn.widen (ps := [.i, .pc, .run]) ?_ (by simp [MayChange])
      exact (he ▸ changesOnlyIn_setI s _ : ChangesOnlyIn [.i] s (s.addToI x)).trans (changesOnlyIn_advance _ 2)
  | ldB x =>
    rcases exec_ldB_cases h with ⟨f, a, rfl⟩ | ⟨hallowed, rfl⟩
    · exact (changesOnlyIn_raise s _ _ _).widen (by simp [MayChange])
    · exact ((changesOnly_writeBytes s _ _).trans (changesOnlyIn_advance _ 2)).mono fun p hp =>
        hp.symm.imp_right fun hb => ⟨hallowed, hb⟩
  | saveReg x =>
    rcases exec_saveReg_cases h with ⟨f, a, rfl⟩ | ⟨hallowed, rfl⟩
    · exact (changesOnlyIn_raise s _ _ _).widen (by simp [MayChange])
    · obtain ⟨t, ht, -, -, -, hframe⟩ := (savesRegisters x s).2 hallowed
      cases h.symm.trans ht
      exact hframe.mono fun p hp => hp.imp_right fun hb => ⟨hallowed, hb⟩
  | loadReg x =>
    rcases exec_loadReg_cases h with ⟨f, a, rfl⟩ | ⟨hrange, rfl⟩
    · exact (changesOnlyIn_raise s _ _ _).widen (by simp [MayChange])
    · obtain ⟨t, ht, -, -, -, hframe⟩ := (loadsRegisters x s).2 hrange
      cases h.symm.trans ht
      exact hframe

/-! ### The obligations -/

/-- Settles O19: SP, the slots, the screen, the bytes of memory, ST and DT are in the frames of their instructions
alone. -/
theorem onlyTheirInstructionsWrite : Obligations.OnlyTheirInstructionsWrite := by
  intro i s t h
  have hframe := exec_frame h
  refine ⟨fun hcall hret => ⟨hframe .sp ?_, Vector.ext fun k hk => hframe (.slot ⟨k, hk⟩) ?_⟩,
    fun hcls hdrw => ⟨hframe .fb ?_, hframe .shown ?_⟩, fun hldB hsave a => hframe (.byte a) ?_,
    fun hldSt => ⟨hframe .st ?_, hframe .sound ?_⟩, fun hldDt => hframe .dt ?_⟩
  all_goals cases i <;> simp_all [MayChange]

/-- Settles O20: VF is in the frame only of the instructions that the statement exempts. -/
theorem otherInstructionsKeepVf : Obligations.OtherInstructionsKeepVf := by
  intro i s t h hvf
  refine exec_frame h (.reg 15) ?_
  cases i with
  | loadReg x =>
    rintro (hp | ⟨r, hr, hp⟩)
    · simp at hp
    · obtain rfl : 15 = r := by simpa using hp
      have hx := x.isLt
      exact hvf (BitVec.eq_of_toNat_eq (Nat.le_antisymm (Nat.lt_succ_iff.1 hx) hr))
  | ldImm x _ | ldReg x _ | or x _ | and x _ | xor x _ | rnd x _ | ldVxDt x =>
    have hx : x ≠ 15 := hvf
    simpa [MayChange] using hx.symm
  | addImm x _ =>
    obtain ⟨hx, hset⟩ : x ≠ 15 ∧ s.cfg.addImmSetsVf = false := hvf
    simpa [MayChange, hset] using hx.symm
  | addI _ =>
    have hmode : s.cfg.addIVf = .unchanged := hvf
    simp [MayChange, hmode]
  | addReg _ _ | sub _ _ | shr _ _ | subn _ _ | shl _ _ | drw _ _ _ => exact False.elim hvf
  | _ => simp [MayChange]

end Sys2Proof.Machine
end

section
/-! PROOFS. How an instruction can end, said once for all 35: it advances, jumps, returns, halts, starts a wait or
faults; and O14, O16 and O17. -/

namespace Sys2Proof.Machine

variable {s t : State}

/-- A frame without the PC and memory keeps the word at PC. -/
theorem ChangesOnlyIn.fetch_eq {ps : List Part} (h : ChangesOnlyIn ps s t) (hpc : .pc ∉ ps := by simp)
    (hbyte : ∀ a, .byte a ∉ ps := by simp) : t.fetch = s.fetch := by
  have hpc' : t.pc = s.pc := h .pc hpc
  have hbyte' (a : Nat) : t.readByte a = s.readByte a := h (.byte a) (hbyte a)
  simp only [State.fetch, hpc', hbyte']

/-- The instructions other than RET that set the PC. -/
def Instr.setsPc : Instr → Prop
  | .jp _ | .jpV0 _ | .call _ => True
  | _ => False

/-- How an instruction that starts in the Running state `s` leaves `run` and the PC. -/
inductive ExecEnds (i : Instr) (s t : State) : Prop where
  | advances (n : Nat) (hret : i ≠ .ret) (hn : n = 2 ∨ mayAdvanceBy4 i = true ∧ n = 4)
      (h : AdvancedOrHalted n s.pc t)
  | jumps (hi : Instr.setsPc i) (hrun : t.run = .running) (hpc : t.pc.toNat ≤ 0x10FE)
  | returns (k : Fin 16) (hi : i = .ret) (hk : k.val + 1 = s.sp.toNat) (h : AdvancedOrHalted 2 s.stack[k] t)
  | halts (hi : i = .halt) (hz : s.cfg.haltOnZero = true) (hrun : t.run = .halted .haltSentinel) (hpc : t.pc = s.pc)
  | waits (x : Reg) (hi : i = .ldVxK x) (hrun : t.run = .waitingForKey x) (hpc : t.pc = s.pc)
      (hfetch : t.fetch = s.fetch)
  | faults (f : FaultKind) (a : Option Nat)
      (hi : mayFault i = true ∨ Instr.setsPc i ∨ (i = .ret ∧ f = .stackUnderflow ∧ s.sp = 0))
      (hrun : t.run = .faulted f s.pc (some (encode i)) a) (hpc : t.pc = s.pc)
      (hfetch : t.fetch = s.fetch)
      (hprecise : f ≠ .displayPortFailure → f ≠ .soundPortFailure → ChangesOnlyIn [.run, .portOks, .drawn] s t)

/-- An advance from a state with the PC and `run` of the start. -/
theorem ExecEnds.advance {i : Instr} {u : State} {n : Nat} (hret : i ≠ .ret)
    (hn : n = 2 ∨ mayAdvanceBy4 i = true ∧ n = 4) (hpc : u.pc = s.pc) (hrun : u.run = .running) :
    ExecEnds i s (u.advance n) :=
  .advances n hret hn (advancedOrHalted_advance n hpc hrun)

/-- An advance after a change of other parts. -/
theorem ExecEnds.advance_of_frame {i : Instr} {u : State} {ps : List Part} (hrun : s.run = .running) (hret : i ≠ .ret)
    (hframe : ChangesOnlyIn ps s u) (hpc : .pc ∉ ps := by simp) (hps : .run ∉ ps := by simp) :
    ExecEnds i s (u.advance 2) := by
  have hu : u.run = s.run := hframe .run hps
  exact .advance hret (.inl rfl) (hframe .pc hpc) (hu.trans hrun)

theorem ExecEnds.skip {i : Instr} {u : State} (c : Bool) (hret : i ≠ .ret) (hi : mayAdvanceBy4 i = true)
    (hpc : u.pc = s.pc) (hrun : u.run = .running) : ExecEnds i s (u.skipIf c) := by
  rcases u.skipIf_cases c with ⟨h, -⟩ | ⟨h, -⟩ <;> rw [h]
  · exact .advance hret (.inr ⟨hi, rfl⟩) hpc hrun
  · exact .advance hret (.inl rfl) hpc hrun

/-- A fault raised from the state as it was, or after a port call of it. -/
theorem ExecEnds.raise {i : Instr} {u : State} {f : FaultKind} {a : Option Nat}
    (hi : mayFault i = true ∨ Instr.setsPc i ∨ (i = .ret ∧ f = .stackUnderflow ∧ s.sp = 0))
    (hframe : ChangesOnlyIn [.portOks, .drawn] s u) : ExecEnds i s (u.raise f (some (encode i)) a) := by
  have hpc : u.pc = s.pc := hframe .pc (by simp)
  exact .faults f a hi (congrArg (Run.faulted f · _ a) hpc) hpc hframe.fetch_eq fun _ _ =>
    (hframe.trans (changesOnlyIn_raise u f _ a)).mono (by simp)

/-- A display or sound fault, which need not be precise. -/
theorem ExecEnds.portFailure {i : Instr} {u : State} {f : FaultKind} {ps : List Part} (hi : mayFault i = true)
    (hf : f = .displayPortFailure ∨ f = .soundPortFailure) (hframe : ChangesOnlyIn ps s u) (hps : .pc ∉ ps := by simp)
    (hbyte : ∀ a, .byte a ∉ ps := by simp) : ExecEnds i s (u.raise f (some (encode i)) none) := by
  have hpc : u.pc = s.pc := hframe .pc hps
  exact .faults f none (.inl hi) (congrArg (Run.faulted f · _ none) hpc) hpc (hframe.fetch_eq hps hbyte)
    fun hd hs => (hf.elim hd hs).elim

theorem execEnds_keySkip {i : Instr} (x : Reg) (want : Bool) (hrun : s.run = .running) (hret : i ≠ .ret)
    (h4 : mayAdvanceBy4 i = true) (hi : mayFault i = true) : ExecEnds i s (s.keySkip x want (encode i)) := by
  rcases keySkip_cases s x want (encode i) with h | h | ⟨c, h⟩ <;> rw [h]
  · exact .raise (.inl hi) (.refl _ s)
  · exact .raise (.inl hi) (changesOnlyIn_drawPortOk s)
  · exact .skip c hret h4 (by simp) (by simpa using hrun)

theorem toNat_offsetTarget_le (s : State) (nnn : Addr12) : (s.offsetTarget nnn).toNat ≤ 0x10FE := by
  have hnnn := nnn.isLt
  have hoff := (s.jumpOffset nnn).isLt
  rw [toNat_offsetTarget]
  omega

theorem toNat_absTarget_le (nnn : Addr12) : (absTarget nnn).toNat ≤ 0x10FE := by
  have hnnn := nnn.isLt
  rw [toNat_absTarget]
  omega

/-- Every instruction that starts in a Running state and has a next state ends in one of these ways. -/
theorem execEnds {i : Instr} (hrun : s.run = .running) (h : exec i s = .next t) : ExecEnds i s t := by
  cases i with
  | halt =>
    rcases exec_halt_cases h with ⟨hz, rfl⟩ | rfl
    · exact .halts rfl hz rfl rfl
    · exact .advance nofun (.inl rfl) rfl hrun
  | cls =>
    rcases exec_cls_cases h with rfl | rfl
    · exact .advance_of_frame hrun nofun (changesOnlyIn_pushCleared s)
    · exact .portFailure rfl (.inl rfl) (changesOnlyIn_pushCleared s)
  | ret =>
    rcases exec_ret_cases h with ⟨hsp, rfl⟩ | ⟨hsp, rfl⟩
    · exact .returns ⟨s.sp.toNat - 1, by omega⟩ rfl (Nat.sub_add_cancel hsp.1) (advancedOrHalted_advance 2 rfl hrun)
    · exact .raise (.inr (.inr ⟨rfl, rfl, BitVec.eq_of_toNat_eq hsp⟩)) (.refl _ s)
  | jp nnn =>
    cases h
    exact .jumps trivial hrun (toNat_absTarget_le nnn)
  | jpV0 nnn =>
    cases h
    exact .jumps trivial hrun (toNat_offsetTarget_le s nnn)
  | call nnn =>
    rcases exec_call_cases h with ⟨-, rfl⟩ | rfl
    · exact .jumps trivial hrun (toNat_absTarget_le nnn)
    · exact .raise (.inr (.inl trivial)) (.refl _ s)
  | seImm _ _ | sneImm _ _ | seReg _ _ | sneReg _ _ =>
    cases h
    exact .skip _ nofun rfl rfl hrun
  | skp x | sknp x =>
    cases h
    exact execEnds_keySkip x _ hrun nofun rfl rfl
  | ldImm _ _ | ldReg _ _ | or _ _ | and _ _ | xor _ _ | ldVxDt _ | ldI _ | ldF _ | ldDt _ =>
    cases h
    exact .advance nofun (.inl rfl) rfl hrun
  | addReg _ _ | sub _ _ | shr _ _ | subn _ _ | shl _ _ =>
    cases h
    exact .advance nofun (.inl rfl) rfl hrun
  | addImm _ _ =>
    cases h
    cases s.cfg.addImmSetsVf <;> exact .advance nofun (.inl rfl) rfl hrun
  | addI x =>
    cases h
    exact .advance_of_frame hrun nofun (changesOnlyIn_addToI s x)
  | rnd x nn =>
    cases h
    exact .advance_of_frame hrun nofun (changesOnlyIn_drawRandom_setV s x _)
  | drw x y n =>
    have hdraw := changesOnlyIn_drawSprite (s := s) (x := x) (y := y) (n := n)
    rcases exec_drw_cases h with ⟨f, a, rfl⟩ | ⟨c, rfl⟩ | rfl
    · exact .raise (.inl rfl) (.refl _ s)
    · exact .advance_of_frame hrun nofun (hdraw.trans (changesOnlyIn_setFlag _ c))
    · exact .portFailure rfl (.inl rfl) hdraw
  | ldVxK x =>
    cases h
    exact .waits x rfl rfl rfl rfl
  | ldSt x =>
    have hwrite := changesOnlyIn_writeSt s (s.getV x)
    rcases exec_ldSt_cases h with rfl | rfl
    · exact .advance_of_frame hrun nofun hwrite
    · exact .portFailure rfl (.inr rfl) hwrite
  | ldB x =>
    rcases exec_ldB_cases h with ⟨f, a, rfl⟩ | ⟨-, rfl⟩
    · exact .raise (.inl rfl) (.refl _ s)
    · exact .advance nofun (.inl rfl) (by simp) (by simpa using hrun)
  | saveReg x =>
    rcases exec_saveReg_cases h with ⟨f, a, rfl⟩ | ⟨-, rfl⟩
    · exact .raise (.inl rfl) (.refl _ s)
    · exact .advance nofun (.inl rfl) (by simp) (by simpa using hrun)
  | loadReg x =>
    rcases exec_loadReg_cases h with ⟨f, a, rfl⟩ | ⟨-, rfl⟩
    · exact .raise (.inl rfl) (.refl _ s)
    · exact .advance nofun (.inl rfl) (by simp) (by simpa using hrun)

theorem AdvancedOrHalted.run_ne_faulted {n : Nat} {pc : Word} (h : AdvancedOrHalted n pc t) (f : FaultKind) (p : Word)
    (w : Option Word) (a : Option Nat) : t.run ≠ .faulted f p w a := by
  rcases h with ⟨-, hrun, -⟩ | ⟨-, hrun, -⟩ <;> rw [hrun] <;> exact nofun

/-! ### The obligations -/

/-- Settles O16: of the ways to end only a fault leaves `run` Faulted, and a fault other than of the display or sound
port is raised with at most a port call before it. -/
theorem preciseFaultsChangeOnlyRun : Obligations.PreciseFaultsChangeOnlyRun := by
  intro i s t f p w a hrun h ht hd hs
  cases execEnds hrun h with
  | advances n _ _ hadv => exact absurd ht (hadv.run_ne_faulted f p w a)
  | returns k _ _ hadv => exact absurd ht (hadv.run_ne_faulted f p w a)
  | jumps _ hrun' _ => rw [hrun'] at ht; cases ht
  | halts _ _ hrun' _ => rw [hrun'] at ht; cases ht
  | waits _ _ hrun' => rw [hrun'] at ht; cases ht
  | faults f' a' _ hrun' _ _ hprecise =>
    rw [hrun'] at ht
    cases ht
    exact ⟨rfl, rfl, hprecise hd hs⟩

/-- Settles O17: the ways to end, sorted by the instruction. -/
theorem pcNeverWraps : Obligations.PcNeverWraps := by
  intro i s t hrun h
  refine ⟨fun hjp hjpV0 hcall hret => ?_, fun hret => ?_⟩
  · have hset : ¬ Instr.setsPc i := by
      cases i <;> simp_all [Instr.setsPc]
    cases execEnds hrun h with
    | advances n _ hn hadv =>
      rcases hn with rfl | ⟨h4, rfl⟩
      · exact .inl hadv
      · exact .inr (.inl ⟨h4, hadv⟩)
    | jumps hi => exact absurd hi hset
    | returns _ hi => exact absurd hi hret
    | halts hi _ hrun' hpc => exact .inr (.inr ⟨hpc, .inl ⟨hi, hrun'⟩⟩)
    | waits x hi hrun' hpc => exact .inr (.inr ⟨hpc, .inr (.inl ⟨x, hi, hrun'⟩)⟩)
    | faults f a hi hrun' hpc =>
      have hfault : mayFault i = true := hi.resolve_right fun hor => hor.elim hset fun hr => hret hr.1
      exact .inr (.inr ⟨hpc, .inr (.inr ⟨hfault, f, _, a, hrun'⟩)⟩)
  · subst hret
    cases execEnds hrun h with
    | advances _ hret => exact absurd rfl hret
    | jumps hi => exact hi.elim
    | returns k _ hk hadv => exact .inr ⟨k, hk, hadv⟩
    | halts hi => cases hi
    | waits _ hi => cases hi
    | faults f a hi hrun' hpc =>
      rcases hi with hi | hi | ⟨-, rfl, hsp⟩
      · cases hi
      · exact hi.elim
      · exact .inl ⟨hsp, hpc, _, a, hrun'⟩

/-- With a legal SP every instruction has a next state. -/
theorem exec_next_of_sp_le (i : Instr) (h : s.sp.toNat ≤ 16) : ∃ t, exec i s = .next t := by
  cases i with
  | call nnn =>
    rcases Nat.lt_or_eq_of_le h with hsp | hsp
    · exact ⟨_, exec_call_of_free nnn hsp⟩
    · exact ⟨_, exec_call_of_full nnn hsp⟩
  | ret =>
    rcases Nat.eq_zero_or_pos s.sp.toNat with hsp | hsp
    · exact ⟨_, exec_ret_of_empty hsp⟩
    · exact ⟨_, exec_ret_of_used ⟨hsp, h⟩⟩
  | _ => exact ⟨_, rfl⟩

theorem coreIteration_next_of_sp_le (h : s.sp.toNat ≤ 16) : ∃ t, coreIteration s = .next t := by
  cases hfetch : s.fetch with
  | error a => exact ⟨_, coreIteration_of_fetch_error hfetch⟩
  | ok w =>
    cases hdecode : decode s.cfg.haltOnZero w with
    | error e => exact ⟨_, coreIteration_of_invalid hfetch hdecode⟩
    | ok i =>
      obtain ⟨t, ht⟩ := exec_next_of_sp_le i h
      exact ⟨t, (coreIteration_of_decoded hfetch hdecode).trans ht⟩

/-- Settles O14: an ended run has no event to take, and of the events of a live one only the Core's turn could stop. -/
theorem liveStatesStepAndEndedOnesDoNot : Obligations.LiveStatesStepAndEndedOnesDoNot := by
  intro s
  refine ⟨fun r hr => ?_, fun f p w a hr => ?_, fun hlive hsp => ?_⟩
  · simp only [step, hr]
  · simp only [step, hr]
  · rw [step_of_live hlive]
    cases s.drawEvent.1 with
    | core =>
      rcases hlive with hrun | ⟨x, hrun⟩
      · obtain ⟨t, ht⟩ := coreIteration_next_of_sp_le (s := s.drawEvent.2) (by rwa [State.drawEvent_sp])
        exact ⟨t, by rw [takeEvent, coreTurn, State.drawEvent_run, hrun]; exact ht⟩
      · exact ⟨_, coreTurn_of_waiting (s.drawEvent_run.trans hrun)⟩
    | tickDT | tickST | cancel | keyDown _ | pollFail => exact ⟨_, rfl⟩

end Sys2Proof.Machine
end

section
/-! PROOFS. What a step can change and how `run` can change in it, and O6, O15, O18, O27 and O60. -/

namespace Sys2Proof.Machine

variable {s t : State}

/-! ### The Core's iteration -/

/-- An iteration faults in the fetch, or runs an invalid word, or runs the instruction whose word stands at PC. -/
theorem coreIteration_inversion (h : coreIteration s = .next t) :
    (∃ a, t = s.raise .addressOutOfRange none (some a)) ∨
      (∃ w e, s.fetch = .ok w ∧ decode s.cfg.haltOnZero w = .error e ∧ t = invalidWord w s) ∨
      ∃ i, s.fetch = .ok (encode i) ∧ decode s.cfg.haltOnZero (encode i) = .ok i ∧ exec i s = .next t := by
  rcases coreIteration_cases h with ha | hw | ⟨w, i, hfetch, hdecode, hexec⟩
  · exact .inl ha
  · exact .inr (.inl hw)
  · obtain rfl := encode_of_decode hdecode
    exact .inr (.inr ⟨i, hfetch, hdecode, hexec⟩)

/-- HALT is decoded only where its parameter gives it. -/
theorem haltOnZero_of_decode {h : Bool} (hd : decode h (encode .halt) = .ok .halt) : h = true := by
  cases h with
  | true => rfl
  | false => cases hd

/-! ### The other steps -/

/-- The parts that an event other than an iteration of the Core may change. -/
def EventMayChange : Event → Part → Prop
  | .core, _ => False
  | .tickDT, p => p ∈ [.dt]
  | .tickST, p => p ∈ [.st, .sound, .portOks, .drawn, .run]
  | .cancel, p | .pollFail, p => p ∈ [.run]
  | .keyDown _, p => p ∈ [.pc, .run] ∨ ∃ x, p = .reg x

theorem tickST_cases (s : State) :
    tickST s = s ∨ tickST s = (s.writeSt (s.st - 1)).2 ∨
      tickST s = (s.writeSt (s.st - 1)).2.raise .soundPortFailure none none := by
  unfold tickST
  split_ifs with h
  · cases hok : (s.writeSt (s.st - 1)).1 with
    | true => exact .inr (.inl (choice_of_ok hok))
    | false => exact .inr (.inr (choice_of_failed hok))
  · exact .inl rfl

theorem changesOnlyIn_tickDT (s : State) : ChangesOnlyIn [.dt] s (tickDT s) := by
  obtain ⟨d, h, -⟩ := tickDT_eq s
  rw [h]
  exact changesOnlyIn_setDt s d

theorem changesOnlyIn_tickST (s : State) : ChangesOnlyIn [.st, .sound, .portOks, .drawn, .run] s (tickST s) := by
  rcases tickST_cases s with h | h | h <;> rw [h]
  · exact .refl _ s
  · exact (changesOnlyIn_writeSt s _).mono (by simp)
  · exact (changesOnlyIn_writeSt s _).trans (changesOnlyIn_raise _ _ _ _)

theorem changesOnlyIn_pollFailEvent (s : State) : ChangesOnlyIn [.run] s (pollFailEvent s) := by
  rcases pollFailEvent_cases s with ⟨h, -⟩ | ⟨x, -, h⟩ <;> rw [h]
  · exact .refl _ s
  · exact changesOnlyIn_raise s _ _ _

theorem changesOnly_keyDownEvent (k : Nibble) (s : State) :
    ChangesOnly (EventMayChange (.keyDown k)) s (keyDownEvent k s) := by
  rcases keyDownEvent_cases k s with ⟨h, -⟩ | ⟨x, -, h⟩ <;> rw [h]
  · exact (ChangesOnlyIn.refl [] s).widen (by simp)
  · exact (((changesOnlyIn_setV s x _).trans (changesOnlyIn_setRun _ _)).trans (changesOnlyIn_advance _ 2)).widen
      (by simp [EventMayChange])

/-- A step is an iteration of the Core, or it keeps to the frame of its event. -/
theorem step_core_or_frame (h : step s = .next t) :
    (s.run = .running ∧ s.drawEvent.1 = .core ∧ coreIteration s.drawEvent.2 = .next t) ∨
      ChangesOnly (EventMayChange s.drawEvent.1) s.drawEvent.2 t := by
  rcases step_inversion h with hcore | ⟨-, hother⟩
  · exact .inl hcore
  · refine .inr ?_
    rcases hother with ⟨he, rfl⟩ | ⟨he, rfl⟩ | ⟨he, rfl⟩ | ⟨he, rfl⟩ | ⟨k, he, rfl⟩ | ⟨he, rfl⟩ <;> rw [he]
    · exact (ChangesOnlyIn.refl [] _).widen (by simp)
    · exact changesOnlyIn_tickDT _
    · exact changesOnlyIn_tickST _
    · exact changesOnlyIn_setRun _ _
    · exact changesOnly_keyDownEvent k _
    · exact changesOnlyIn_pollFailEvent _

/-- A part that neither a fetch fault nor an invalid word changes stays as it is in a step, unless the event or the
instruction that the step runs may change it. -/
theorem step_keeps {p : Part} (h : step s = .next t) (hp : p ∉ [.diag, .pc, .run])
    (hevent : ¬ EventMayChange s.drawEvent.1 p)
    (hinstr : ∀ i, s.run = .running → s.drawEvent.1 = .core → s.fetch = .ok (encode i) →
      ¬ MayChange s.drawEvent.2 i p) :
    p.Same s.drawEvent.2 t := by
  rcases step_core_or_frame h with ⟨hrun, he, hcore⟩ | hframe
  · rcases coreIteration_inversion hcore with ⟨_, rfl⟩ | ⟨w, e, -, -, rfl⟩ | ⟨i, hfetch, -, hexec⟩
    · exact changesOnlyIn_raise _ _ _ _ p fun hmem => hp (by simp_all)
    · exact changesOnlyIn_invalidWord w _ p hp
    · exact exec_frame hexec p (hinstr i hrun he (s.fetch_drawEvent ▸ hfetch))
  · exact hframe p hevent

/-! ### O6 and O18 -/

/-- No instruction may change a byte of the reserved region under `LOW_MEMORY_WRITE = FAULT`. -/
theorem not_mayChange_reserved {a : Nat} (hmode : s.cfg.lowMemoryWrite = .fault) (ha : a < 512) (i : Instr) :
    ¬ MayChange s i (.byte a) := by
  have hstore {n : Nat} (hallowed : s.storeAllowed n) : 512 ≤ s.i.toNat :=
    hallowed.2.resolve_right fun hw => by rw [hmode] at hw; cases hw
  cases i with
  | ldB x | saveReg x =>
    rintro (hp | ⟨hallowed, k, -, hp⟩)
    · simp at hp
    · have hi := hstore hallowed
      obtain rfl : a = s.i.toNat + k := by simpa using hp
      omega
  | _ => simp [MayChange]

/-- Settles O6: of all steps only a store writes memory, and a store below 512 is not allowed. -/
theorem stepKeepsReservedRegion : Obligations.StepKeepsReservedRegion := by
  intro s t hmode h a ha
  rw [← s.readByte_drawEvent a]
  refine step_keeps (p := .byte a) h (by simp) ?_ fun i _ _ _ => ?_
  · cases s.drawEvent.1 <;> simp [EventMayChange]
  · exact not_mayChange_reserved (by rwa [State.drawEvent_cfg]) ha i

theorem not_mayChange_cfg (s : State) (i : Instr) : ¬ MayChange s i .cfg := by
  cases i <;> simp [MayChange]

/-- The diagnostic output is in no frame but HALT's, and HALT writes it only where it is not decoded. -/
theorem exec_keeps_diag {i : Instr} (hd : decode s.cfg.haltOnZero (encode i) = .ok i) (h : exec i s = .next t) :
    t.diag = s.diag := by
  by_cases hi : i = .halt
  · subst hi
    rw [exec_halt_of_sentinel (haltOnZero_of_decode hd)] at h
    cases h
    rfl
  · refine exec_frame h .diag ?_
    cases i <;> simp_all [MayChange]

/-- Settles O18: the configuration is in no frame, and the diagnostic output only in the invalid word's. -/
theorem configFixedDiagnosticsGrow : Obligations.ConfigFixedDiagnosticsGrow := by
  intro s t h
  rw [← s.drawEvent_cfg, ← s.drawEvent_diag]
  constructor
  · refine step_keeps (p := .cfg) h (by simp) ?_ fun i _ _ _ => not_mayChange_cfg _ i
    cases s.drawEvent.1 <;> simp [EventMayChange]
  · rcases step_core_or_frame h with ⟨hrun, -, hcore⟩ | hframe
    · rcases coreIteration_inversion hcore with ⟨_, rfl⟩ | ⟨w, e, hfetch, hdecode, rfl⟩ | ⟨i, -, hdecode, hexec⟩
      · exact .inl rfl
      · refine .inr ⟨w, e, hrun, s.fetch_drawEvent ▸ hfetch, hdecode, ?_⟩
        rw [invalidWord_diag, State.drawEvent_pc]
      · exact .inl (exec_keeps_diag hdecode hexec)
    · refine .inl (hframe .diag ?_)
      cases s.drawEvent.1 <;> simp [EventMayChange]

/-! ### O15 -/

/-- What an advance of a Running state does to `run` is in the table. -/
theorem AdvancedOrHalted.runStep {n : Nat} {pc : Word} (h : AdvancedOrHalted n pc t) (hrun : s.run = .running) :
    t.run = s.run ∨ RunStep s t.run := by
  rcases h with ⟨-, hrun', -⟩ | ⟨-, hrun', -⟩ <;> rw [hrun']
  · exact .inl hrun.symm
  · exact .inr (.overflow s hrun)

/-- What an iteration does to `run` is in the table. -/
theorem coreIteration_runStep (hrun : s.run = .running) (h : coreIteration s = .next t) :
    t.run = s.run ∨ RunStep s t.run := by
  rcases coreIteration_inversion h with ⟨a, rfl⟩ | ⟨w, e, -, -, rfl⟩ | ⟨i, hfetch, -, hexec⟩
  · exact .inr (.faults s _ _ _ hrun)
  · exact (advancedOrHalted_advance (t := s.addDiag _) 2 rfl hrun).runStep hrun
  · cases execEnds hrun hexec with
    | advances _ _ _ hadv | returns _ _ _ hadv => exact hadv.runStep hrun
    | jumps _ hrun' => exact .inl (hrun'.trans hrun.symm)
    | halts hi hz hrun' =>
      subst hi
      rw [hrun']
      exact .inr (.sentinel s hrun hz hfetch)
    | waits x hi hrun' =>
      subst hi
      rw [hrun']
      exact .inr (.waits s x hrun hfetch)
    | faults f a _ hrun' =>
      rw [hrun']
      exact .inr (.faults s f _ a hrun)

theorem tickST_runStep (hlive : s.live) : (tickST s).run = s.run ∨ RunStep s (tickST s).run := by
  obtain ⟨b, c, h, r, he, -, hr⟩ := tickST_eq s
  rw [he]
  rcases hr with rfl | rfl
  · exact .inl rfl
  · rcases hlive with hrun | ⟨x, hrun⟩
    · exact .inr (.faults s _ _ _ hrun)
    · exact .inr (.tickFails s x hrun)

theorem keyDownEvent_runStep (k : Nibble) (s : State) :
    (keyDownEvent k s).run = s.run ∨ RunStep s (keyDownEvent k s).run := by
  rcases keyDownEvent_cases k s with ⟨h, -⟩ | ⟨x, hrun, h⟩ <;> rw [h]
  · exact .inl rfl
  · rcases State.advance_cases ((s.setV x (k.setWidth 8)).setRun .running) 2 with ⟨-, hadv⟩ | ⟨hpast, hadv⟩ <;>
      rw [hadv]
    · exact .inr (.resumes s x hrun)
    · exact .inr (.resumeOverflows s x hrun hpast)

theorem pollFailEvent_runStep (s : State) : (pollFailEvent s).run = s.run ∨ RunStep s (pollFailEvent s).run := by
  rcases pollFailEvent_cases s with ⟨h, -⟩ | ⟨x, hrun, h⟩ <;> rw [h]
  · exact .inl rfl
  · exact .inr (.pollFails s x hrun)

/-- The transitions of `run` look only at parts that the draw of the event keeps. -/
theorem RunStep.of_drawEvent {r : Run} (h : RunStep s.drawEvent.2 r) : RunStep s r := by
  rw [s.drawEvent_eq] at h
  cases h with
  | waits x h at_ => exact .waits s x h at_
  | resumes x h => exact .resumes s x h
  | sentinel h z at_ => exact .sentinel s h z at_
  | overflow h => exact .overflow s h
  | resumeOverflows x h past => exact .resumeOverflows s x h past
  | cancelled h => exact .cancelled s h
  | faults f w a h => exact .faults s f w a h
  | pollFails x h => exact .pollFails s x h
  | tickFails x h => exact .tickFails s x h

theorem State.live_drawEvent : s.drawEvent.2.live ↔ s.live := by
  rw [State.live, State.live, State.drawEvent_run]

/-- Settles O15: each kind of step, from the state after its event is drawn. -/
theorem runChangesByTheTable : Obligations.RunChangesByTheTable := by
  intro s t h
  suffices hstep : t.run = s.drawEvent.2.run ∨ RunStep s.drawEvent.2 t.run from
    hstep.imp (·.trans s.drawEvent_run) RunStep.of_drawEvent
  rcases step_inversion h with ⟨hrun, -, hcore⟩ | ⟨hlive, hother⟩
  · exact coreIteration_runStep (s.drawEvent_run.trans hrun) hcore
  · rw [← State.live_drawEvent] at hlive
    rcases hother with ⟨-, rfl⟩ | ⟨-, rfl⟩ | ⟨-, rfl⟩ | ⟨-, rfl⟩ | ⟨k, -, rfl⟩ | ⟨-, rfl⟩
    · exact .inl rfl
    · exact .inl (changesOnlyIn_tickDT _ .run (by simp))
    · exact tickST_runStep hlive
    · exact .inr (.cancelled _ hlive)
    · exact keyDownEvent_runStep k _
    · exact pollFailEvent_runStep _

/-! ### The timers in a step: O60 -/

theorem step_of_tickDT (h : step s = .next t) (he : s.drawEvent.1 = .tickDT) : t = tickDT s.drawEvent.2 := by
  have hstep := (step_of_event (step_next h).1 he).symm.trans h
  injection hstep with hstep
  exact hstep.symm

theorem step_of_tickST (h : step s = .next t) (he : s.drawEvent.1 = .tickST) : t = tickST s.drawEvent.2 := by
  have hstep := (step_of_event (step_next h).1 he).symm.trans h
  injection hstep with hstep
  exact hstep.symm

/-- A step that runs no FX15 counts DT down exactly where it is a TickDT. -/
theorem step_dt_of_not_writes (h : step s = .next t) (hw : ¬ s.writesDt) :
    t.dt.toNat = s.dt.toNat - (if s.drawEvent.1 = .tickDT then 1 else 0) := by
  rw [← s.drawEvent_dt]
  split_ifs with he
  · obtain ⟨d, htick, hd⟩ := tickDT_eq s.drawEvent.2
    rw [step_of_tickDT h he, htick]
    exact hd
  · refine congrArg BitVec.toNat (step_keeps (p := .dt) h (by simp) ?_ fun i hrun hcore hfetch => ?_)
    · revert he
      cases s.drawEvent.1 <;> simp [EventMayChange]
    · have hi (x : Reg) : i ≠ .ldDt x := fun e => hw ⟨hrun, hcore, x, e ▸ hfetch⟩
      cases i <;> simp_all [MayChange]

/-- A step that runs no FX18 counts ST down exactly where it is a TickST. -/
theorem step_st_of_not_writes (h : step s = .next t) (hw : ¬ s.writesSt) :
    t.st.toNat = s.st.toNat - (if s.drawEvent.1 = .tickST then 1 else 0) := by
  rw [← s.drawEvent_st]
  split_ifs with he
  · obtain ⟨b, c, k, r, htick, hb, -⟩ := tickST_eq s.drawEvent.2
    rw [step_of_tickST h he, htick]
    exact hb
  · refine congrArg BitVec.toNat (step_keeps (p := .st) h (by simp) ?_ fun i hrun hcore hfetch => ?_)
    · revert he
      cases s.drawEvent.1 <;> simp [EventMayChange]
    · have hi (x : Reg) : i ≠ .ldSt x := fun e => hw ⟨hrun, hcore, x, e ▸ hfetch⟩
      cases i <;> simp_all [MayChange]

/-- A step that runs an FX15 writes V[x] to DT. -/
theorem step_dt_of_writes (h : step s = .next t) {x : Reg} (hrun : s.run = .running) (hcore : s.drawEvent.1 = .core)
    (hfetch : s.fetch = .ok (encode (.ldDt x))) : t.dt = s.getV x := by
  rw [step_of_running_core hrun hcore,
    coreIteration_of_decoded (s.fetch_drawEvent.trans hfetch) (decodesTo_encode (i := .ldDt x) nofun _), exec_ldDt] at h
  injection h with h
  rw [← h, State.advance_dt, State.setDt_dt, State.getV_drawEvent]

/-- Settles O60: a step that runs no FX15 leaves DT or counts it down. -/
theorem delayTimerGrowsOnlyByFx15 : Obligations.DelayTimerGrowsOnlyByFx15 := by
  intro s t h
  by_cases hw : s.writesDt
  · obtain ⟨hrun, hcore, x, hfetch⟩ := hw
    exact .inr ⟨x, hrun, hfetch, step_dt_of_writes h hrun hcore hfetch⟩
  · exact .inl ((step_dt_of_not_writes h hw).trans_le (Nat.sub_le _ _))

/-! ### The timers in a run: O27 -/

/-- The value `f` counts down with the event `e` in every step of the run `r` that does not write it. -/
def CountsDown (f : State → Nat) (writes : State → Prop) (e : Event) (r : Nat → State) : Prop :=
  ∀ n, ¬ writes (r n) → f (r (n + 1)) = f (r n) - (if (r n).drawEvent.1 = e then 1 else 0)

section
variable {f : State → Nat} {writes : State → Prop} {e : Event} {r : Nat → State}

theorem CountsDown.drop (h : CountsDown f writes e r) (k : Nat) : CountsDown f writes e fun n => r (k + n) :=
  fun n => h (k + n)

theorem InfinitelyOften.drop (h : InfinitelyOften e r) (k : Nat) : InfinitelyOften e fun n => r (k + n) := by
  intro n
  obtain ⟨m, hm, he⟩ := h (k + n)
  obtain ⟨j, rfl⟩ := Nat.exists_eq_add_of_le (Nat.le_of_add_right_le hm)
  exact ⟨j, by omega, he⟩

/-- While nothing writes it, the value is the first one less the events counted. -/
theorem CountsDown.eq_sub_count (h : CountsDown f writes e r) (n : Nat) (hw : ∀ k, k < n → ¬ writes (r k)) :
    f (r n) = f (r 0) - countEvent e r n := by
  induction n with
  | zero => rfl
  | succ n ih =>
    rw [h n (hw n n.lt_succ_self), ih fun k hk => hw k (Nat.lt_succ_of_lt hk), countEvent, Nat.sub_sub]

theorem countEvent_mono {m n : Nat} (h : m ≤ n) : countEvent e r m ≤ countEvent e r n := by
  induction h with
  | refl => exact Nat.le_refl _
  | step _ ih => exact Nat.le_add_right_of_le ih

/-- What comes up infinitely often is counted past every bound. -/
theorem InfinitelyOften.le_countEvent (h : InfinitelyOften e r) (c : Nat) : ∃ n, c ≤ countEvent e r n := by
  induction c with
  | zero => exact ⟨0, Nat.zero_le _⟩
  | succ c ih =>
    obtain ⟨n, hn⟩ := ih
    obtain ⟨m, hm, he⟩ := h n
    refine ⟨m + 1, ?_⟩
    rw [countEvent, if_pos he]
    exact Nat.succ_le_succ (hn.trans (countEvent_mono hm))

/-- Under fairness the value reaches 0 from any point on, unless it is written again. -/
theorem CountsDown.reaches_zero (h : CountsDown f writes e r) (hfair : InfinitelyOften e r) (n : Nat) :
    ∃ m, n ≤ m ∧ (f (r m) = 0 ∨ writes (r m)) := by
  by_contra hnever
  have hw (k : Nat) : ¬ writes (r (n + k)) := fun hk => hnever ⟨n + k, by omega, .inr hk⟩
  obtain ⟨k, hk⟩ := (hfair.drop n).le_countEvent (f (r n))
  have hzero : f (r (n + k)) = 0 :=
    ((h.drop n).eq_sub_count k fun j _ => hw j).trans (Nat.sub_eq_zero_of_le hk)
  exact hnever ⟨n + k, by omega, .inl hzero⟩

end

/-- Inputs put in between two steps change no timer. -/
theorem IsRun.countsDown_dt {r : Nat → State} (h : IsRun r) :
    CountsDown (fun s => s.dt.toNat) State.writesDt .tickDT r := by
  intro n hw
  obtain ⟨t, k, hstep, hnext⟩ := h n
  simp only [hnext, State.setHost_dt]
  exact step_dt_of_not_writes hstep hw

theorem IsRun.countsDown_st {r : Nat → State} (h : IsRun r) :
    CountsDown (fun s => s.st.toNat) State.writesSt .tickST r := by
  intro n hw
  obtain ⟨t, k, hstep, hnext⟩ := h n
  simp only [hnext, State.setHost_st]
  exact step_st_of_not_writes hstep hw

/-- Settles O27: each timer counts down with its tick, and under fairness its ticks are past every bound. -/
theorem timersDecayInEveryRun : Obligations.TimersDecayInEveryRun := by
  intro r h
  have hzero (b : Byte) : b.toNat = 0 ↔ b = 0 := BitVec.toNat_inj (y := 0)
  refine ⟨h.countsDown_dt.eq_sub_count, h.countsDown_st.eq_sub_count, fun ⟨_, hdt, hst⟩ n => ?_⟩
  have hreach := And.intro (h.countsDown_dt.reaches_zero hdt n) (h.countsDown_st.reaches_zero hst n)
  simpa only [hzero] using hreach

end Sys2Proof.Machine
end

section
/-! PROOFS. Reset, boot and the invariant: O1 to O5 (10_state.md section 10, 70_reset_and_hazards.md section 1). -/

namespace Sys2Proof.Machine

variable {s t : State}

/-! ### The invariant in two parts: what `run` has no part in, and what it has -/

/-- The parts of the invariant that do not speak of `run`. -/
structure Steady (s : State) : Prop where
  memWf : Memory.wf s.cfg s.mem = true
  spLegal : s.sp.toNat ≤ 16
  returns : ∀ k : Fin 16, k.val < s.sp.toNat → s.stack[k].toNat < 4095
  pcBound : s.pc.toNat ≤ 0x10FE
  soundFollowsSt : tonePlaying s.sound = s.soundOn

/-- The parts of the invariant that speak of `run`, here a value `r` for it. -/
structure RunFits (s : State) (r : Run) : Prop where
  waitsAtFx0A : ∀ x, r = .waitingForKey x → s.fetch = .ok (encode (.ldVxK x))
  noPcOverflow : r ≠ .halted .pcOverflow
  faultPc : ∀ f p w a, r = .faulted f p w a → p = s.pc
  faultWord : ∀ f p w a, r = .faulted f p (some w) a → s.fetch = .ok w

theorem inv_iff : Inv s ↔ Steady s ∧ RunFits s s.run :=
  ⟨fun h => ⟨⟨h.memWf, h.spLegal, h.returns, h.pcBound, h.soundFollowsSt⟩,
      ⟨h.waitsAtFx0A, h.noPcOverflow, h.faultPc, h.faultWord⟩⟩,
    fun ⟨h, hr⟩ => ⟨h.memWf, h.spLegal, h.returns, h.pcBound, hr.waitsAtFx0A, hr.noPcOverflow, hr.faultPc,
      hr.faultWord, h.soundFollowsSt⟩⟩

theorem Inv.steady (h : Inv s) : Steady s := (inv_iff.1 h).1

theorem runFits_running (s : State) : RunFits s .running := ⟨nofun, nofun, nofun, nofun⟩

theorem runFits_halted {r : HaltReason} (s : State) (h : r ≠ .pcOverflow) : RunFits s (.halted r) :=
  ⟨nofun, fun e => h (by injection e), nofun, nofun⟩

theorem runFits_waiting {x : Reg} (h : s.fetch = .ok (encode (.ldVxK x))) : RunFits s (.waitingForKey x) :=
  ⟨fun y e => by injection e with e; rwa [← e], nofun, nofun, nofun⟩

theorem runFits_faulted {w : Option Word} (f : FaultKind) (a : Option Nat) (h : ∀ v, w = some v → s.fetch = .ok v) :
    RunFits s (.faulted f s.pc w a) :=
  ⟨nofun, nofun, fun _ _ _ _ e => by injection e with _ e; exact e.symm,
    fun _ _ v _ e => h v (by injection e)⟩

theorem RunFits.congr {r : Run} (h : RunFits s r) (hpc : t.pc = s.pc) (hfetch : t.fetch = s.fetch) : RunFits t r :=
  ⟨fun x e => hfetch.trans (h.waitsAtFx0A x e), h.noPcOverflow, fun f p w a e => (h.faultPc f p w a e).trans hpc.symm,
    fun f p w a e => hfetch.trans (h.faultWord f p w a e)⟩

/-! ### Reset and boot -/

theorem steady_resetWith (c : Config) : Steady (State.resetWith c) :=
  ⟨rfl, Nat.zero_le _, fun k hk => absurd hk (Nat.not_lt_zero _), by simp [State.resetWith], rfl⟩

/-- Settles O3: the reset state is steady and Running. -/
theorem resetMeetsInvariant : Obligations.ResetMeetsInvariant :=
  inv_iff.2 ⟨steady_resetWith _, runFits_running _⟩

theorem boot_of_fits {c : Config} {image : List Byte} (h : image.length ≤ 3584) :
    boot c image = some ((State.resetWith c).writeBytes 512 image) := if_pos h

/-- Settles O2: the loader refuses the image. -/
theorem bootRefusesLongImage : Obligations.BootRefusesLongImage := fun _ _ h => if_neg (Nat.not_le.2 h)

theorem Steady.writeBytes {a : Nat} {bs : List Byte} (h : Steady s) (hbs : a + bs.length ≤ 4096) :
    Steady (s.writeBytes a bs) where
  memWf := by
    rw [State.writeBytes_cfg]
    exact State.writeBytes_length_wf h.memWf hbs
  spLegal := by
    rw [State.writeBytes_sp]
    exact h.spLegal
  returns := by
    rw [State.writeBytes_sp, State.writeBytes_stack]
    exact h.returns
  pcBound := by
    rw [State.writeBytes_pc]
    exact h.pcBound
  soundFollowsSt := by
    rw [State.writeBytes_sound, State.soundOn, State.writeBytes_st]
    exact h.soundFollowsSt

/-- Settles O4: the image is written inside memory, and the state stays Running. -/
theorem launchMeetsInvariant : Obligations.LaunchMeetsInvariant := by
  intro c image s h
  by_cases hlen : image.length ≤ 3584
  · rw [boot_of_fits hlen] at h
    injection h with h
    subst h
    refine inv_iff.2 ⟨(steady_resetWith c).writeBytes (by omega), ?_⟩
    rw [State.writeBytes_run]
    exact runFits_running _
  · rw [bootRefusesLongImage c image (by omega)] at h
    cases h

theorem readByte_resetWith (c : Config) (a : Nat) : (State.resetWith c).readByte a = resetByte c a := rfl

theorem resetByte_of_font (c : Config) (d : Fin 16) (r : Fin 5) :
    resetByte c (c.fontBase.val + 5 * d.val + r.val) = c.fontGlyphs[d][r] := by
  have hd := d.isLt
  have hr := r.isLt
  have hglyph : (c.fontBase.val + 5 * d.val + r.val - c.fontBase.val) / 5 = d.val := by omega
  have hrow : (c.fontBase.val + 5 * d.val + r.val - c.fontBase.val) % 5 = r.val := by omega
  rw [resetByte, dif_pos ⟨by omega, by omega⟩]
  simp only [hglyph, hrow]
  rfl

theorem resetByte_of_not_font {c : Config} {a : Nat} (h : ¬ (c.fontBase.val ≤ a ∧ a < c.fontBase.val + 80)) :
    resetByte c a = 0 := dif_neg h

/-- Settles O1: the loader writes the image into the reset state, and the font lies below it. -/
theorem bootLeavesResetState : Obligations.BootLeavesResetState := by
  intro c image hlen
  have hread (a : Nat) (ha : ¬ (512 ≤ a ∧ a < 512 + image.length)) :
      ((State.resetWith c).writeBytes 512 image).readByte a = resetByte c a := by
    rw [State.readByte_writeBytes, if_neg ha, readByte_resetWith]
  have hscreen (x y : Nat) : pixel (State.resetWith c).fb x y = false := pixel_clearFb x y
  refine ⟨_, boot_of_fits hlen, fun x => ?_, by simp [State.resetWith], by simp [State.resetWith],
    by simp [State.resetWith], fun k => by simp [State.resetWith], by simp [State.resetWith], by simp [State.resetWith],
    by simp [State.soundOn, State.resetWith], fun x y _ _ => ?_, by simp [State.resetWith], by simp [State.resetWith],
    by simp [State.resetWith], by simp [State.resetWith], fun k hk => ?_, fun d r => ?_, fun a ha himg hfont => ?_⟩
  · rw [State.getV_writeBytes]
    simp [State.getV, State.resetWith]
  · rw [State.writeBytes_fb, hscreen]
  · rw [State.readByte_writeBytes, if_pos ⟨by omega, by omega⟩, Nat.add_sub_cancel_left]
  · have hbase := c.fontBase.isLt
    have hd := d.isLt
    have hr := r.isLt
    rw [hread _ (by omega), resetByte_of_font]
  · rw [hread a himg, resetByte_of_not_font hfont]

/-! ### Advances, faults and the other changes that keep the invariant -/

theorem Steady.advance {n : Nat} (h : Steady s) (hrun : s.run = .running) (hpc : s.pc.toNat + n ≤ 0x10FE) :
    Inv (s.advance n) := by
  obtain ⟨hpc', hrun'⟩ := s.advance_pc_run n (by omega)
  refine inv_iff.2 ⟨⟨?_, ?_, ?_, ?_, ?_⟩, ?_⟩
  · rw [State.advance_cfg, State.advance_mem]
    exact h.memWf
  · rw [State.advance_sp]
    exact h.spLegal
  · rw [State.advance_sp, State.advance_stack]
    exact h.returns
  · rwa [hpc']
  · rw [State.advance_sound, State.soundOn, State.advance_st]
    exact h.soundFollowsSt
  · rw [hrun', hrun]
    exact runFits_running _

theorem Steady.setRun {r : Run} (h : Steady s) (hr : RunFits s r) : Inv (s.setRun r) :=
  inv_iff.2 ⟨⟨h.memWf, h.spLegal, h.returns, h.pcBound, h.soundFollowsSt⟩, hr.congr rfl rfl⟩

theorem Steady.raise {w : Option Word} (h : Steady s) (f : FaultKind) (a : Option Nat)
    (hw : ∀ v, w = some v → s.fetch = .ok v) : Inv (s.raise f w a) := h.setRun (runFits_faulted f a hw)

theorem Inv.setHost (h : Inv s) (k : HostInputs) : Inv (s.setHost k) :=
  inv_iff.2 ⟨⟨h.memWf, h.spLegal, h.returns, h.pcBound, h.soundFollowsSt⟩, (inv_iff.1 h).2.congr rfl rfl⟩

theorem Inv.drawEvent (h : Inv s) : Inv s.drawEvent.2 := by
  rw [s.drawEvent_eq]
  exact h.setHost _

theorem Inv.setDt (h : Inv s) (b : Byte) : Inv (s.setDt b) :=
  inv_iff.2 ⟨⟨h.memWf, h.spLegal, h.returns, h.pcBound, h.soundFollowsSt⟩, (inv_iff.1 h).2.congr rfl rfl⟩

/-- A write of ST keeps the invariant: the tone follows it. -/
theorem Inv.writeSt (h : Inv s) (b : Byte) : Inv (s.writeSt b).2 := by
  have htone := s.writeSt_tone b h.soundFollowsSt
  rw [s.writeSt_eq b] at htone ⊢
  exact inv_iff.2 ⟨⟨h.memWf, h.spLegal, h.returns, h.pcBound, htone⟩, (inv_iff.1 h).2.congr rfl rfl⟩

/-! ### The steps of the other agents -/

theorem Inv.tickDT (h : Inv s) : Inv (tickDT s) := by
  obtain ⟨d, he, -⟩ := tickDT_eq s
  rw [he]
  exact h.setDt d

theorem Inv.tickST (h : Inv s) : Inv (tickST s) := by
  rcases tickST_cases s with he | he | he <;> rw [he]
  · exact h
  · exact h.writeSt _
  · exact (h.writeSt _).steady.raise _ _ nofun

theorem Inv.keyDownEvent (h : Inv s) (k : Nibble) : Inv (keyDownEvent k s) := by
  rcases keyDownEvent_cases k s with ⟨he, -⟩ | ⟨x, hrun, he⟩ <;> rw [he]
  · exact h
  · have hpc := pc_lt_of_fetch (h.waitsAtFx0A x hrun)
    refine Steady.advance ⟨h.memWf, h.spLegal, h.returns, h.pcBound, h.soundFollowsSt⟩ rfl ?_
    rw [State.setRun_pc, State.setV_pc]
    omega

theorem Inv.pollFailEvent (h : Inv s) : Inv (pollFailEvent s) := by
  rcases pollFailEvent_cases s with ⟨he, -⟩ | ⟨x, hrun, he⟩ <;> rw [he]
  · exact h
  · exact h.steady.raise _ _ fun v hv => by injection hv with hv; rw [← hv]; exact h.waitsAtFx0A x hrun

/-! ### Memory under an instruction -/

theorem skipIf_mem (s : State) (c : Bool) : (s.skipIf c).mem = s.mem := by
  rcases s.skipIf_cases c with ⟨h, -⟩ | ⟨h, -⟩ <;> rw [h, State.advance_mem]

theorem keySkip_mem (s : State) (x : Reg) (want : Bool) (w : Word) : (s.keySkip x want w).mem = s.mem := by
  rcases keySkip_cases s x want w with h | h | ⟨c, h⟩ <;> rw [h]
  · rfl
  · exact s.drawPortOk_mem
  · rw [skipIf_mem, State.drawKeys_mem, State.drawPortOk_mem]

theorem pushCleared_mem (s : State) : s.pushCleared.mem = s.mem := State.drawPortOk_mem _

theorem drawSprite_mem (s : State) (x y : Reg) (n : Nibble) : (s.drawSprite x y n).1.mem = s.mem := by
  rw [State.drawSprite, State.drawRows_eq]

theorem writeSt_mem (s : State) (b : Byte) : (s.writeSt b).2.mem = s.mem := by
  rw [State.writeSt_eq]

theorem addToI_mem (s : State) (x : Reg) : (s.addToI x).mem = s.mem := by
  rcases addToI_cases s x with ⟨f, -, h⟩ | ⟨-, h⟩ <;> rw [h] <;> rfl

/-- Every instruction but FX33 and FX55 leaves the list of cells as it is. -/
theorem exec_mem {i : Instr} (hldB : ∀ x, i ≠ .ldB x) (hsave : ∀ x, i ≠ .saveReg x) (h : exec i s = .next t) :
    t.mem = s.mem := by
  cases i with
  | ldB x => exact absurd rfl (hldB x)
  | saveReg x => exact absurd rfl (hsave x)
  | halt =>
    rcases exec_halt_cases h with ⟨-, rfl⟩ | rfl
    · rfl
    · exact State.advance_mem _ 2
  | cls =>
    rcases exec_cls_cases h with rfl | rfl
    · exact (State.advance_mem _ 2).trans (pushCleared_mem s)
    · exact pushCleared_mem s
  | ret =>
    rcases exec_ret_cases h with ⟨-, rfl⟩ | ⟨-, rfl⟩
    · exact State.advance_mem _ 2
    · rfl
  | jp _ | jpV0 _ | ldVxK _ => cases h; rfl
  | call _ => rcases exec_call_cases h with ⟨-, rfl⟩ | rfl <;> rfl
  | seImm _ _ | sneImm _ _ | seReg _ _ | sneReg _ _ => cases h; exact skipIf_mem s _
  | skp x | sknp x => cases h; exact keySkip_mem s x _ _
  | ldImm _ _ | ldReg _ _ | or _ _ | and _ _ | xor _ _ | ldVxDt _ | ldI _ | ldF _ | ldDt _ =>
    cases h; exact State.advance_mem _ 2
  | addReg _ _ | sub _ _ | shr _ _ | subn _ _ | shl _ _ => cases h; exact State.advance_mem _ 2
  | addImm _ _ =>
    cases h
    rw [State.advance_mem]
    split_ifs <;> rfl
  | addI x => cases h; exact (State.advance_mem _ 2).trans (addToI_mem s x)
  | rnd _ _ => cases h; exact (State.advance_mem _ 2).trans s.drawRandom_mem
  | drw x y n =>
    rcases exec_drw_cases h with ⟨f, a, rfl⟩ | ⟨c, rfl⟩ | rfl
    · rfl
    · exact (State.advance_mem _ 2).trans (drawSprite_mem s x y n)
    · exact drawSprite_mem s x y n
  | ldSt x =>
    rcases exec_ldSt_cases h with rfl | rfl
    · exact (State.advance_mem _ 2).trans (writeSt_mem s _)
    · exact writeSt_mem s _
  | loadReg x =>
    rcases exec_loadReg_cases h with ⟨f, a, rfl⟩ | ⟨-, rfl⟩
    · rfl
    · simp

/-- A store that is allowed keeps the canonical form. -/
theorem writeBytes_keeps_memWf {bs : List Byte} (hwf : Memory.wf s.cfg s.mem = true)
    (hallowed : s.storeAllowed bs.length) : Memory.wf s.cfg (s.writeBytes s.i.toNat bs).mem = true :=
  State.writeBytes_length_wf hwf hallowed.1

theorem exec_keeps_memWf {i : Instr} (hwf : Memory.wf s.cfg s.mem = true) (h : exec i s = .next t) :
    Memory.wf t.cfg t.mem = true := by
  have hcfg : t.cfg = s.cfg := exec_frame h .cfg (not_mayChange_cfg s i)
  rw [hcfg]
  cases i with
  | ldB x =>
    rcases exec_ldB_cases h with ⟨f, a, rfl⟩ | ⟨hallowed, rfl⟩
    · exact hwf
    · rw [State.advance_mem]
      exact writeBytes_keeps_memWf hwf hallowed
  | saveReg x =>
    rcases exec_saveReg_cases h with ⟨f, a, rfl⟩ | ⟨hallowed, rfl⟩
    · exact hwf
    · rw [State.advance_mem, State.updateI_mem]
      exact writeBytes_keeps_memWf hwf (by rwa [State.getVs_length])
  | _ =>
    rw [exec_mem (by simp) (by simp) h]
    exact hwf

/-! ### The stack, the PC, the tone and `run` under an instruction -/

/-- SP stays legal and every occupied slot below 4095: a CALL fills the next slot with its own PC. -/
theorem exec_keeps_stack {i : Instr} (hinv : Steady s) (hpc : s.pc.toNat < 4095) (h : exec i s = .next t) :
    t.sp.toNat ≤ 16 ∧ ∀ k : Fin 16, k.val < t.sp.toNat → t.stack[k].toNat < 4095 := by
  by_cases hcall : ∃ nnn, i = .call nnn
  · obtain ⟨nnn, rfl⟩ := hcall
    rcases exec_call_cases h with ⟨hsp, rfl⟩ | rfl
    · rw [State.setPc_sp, State.setPc_stack, State.setStack_sp, State.setStack_stack, toNat_succ (by omega)]
      refine ⟨hsp, fun k hk => ?_⟩
      by_cases hk' : s.sp.toNat = k
      · rw [Fin.getElem_fin, Vector.getElem_set, if_pos hk']
        exact hpc
      · rw [Fin.getElem_fin, Vector.getElem_set_ne _ _ hk']
        exact hinv.returns k (by omega)
    · exact ⟨hinv.spLegal, hinv.returns⟩
  · by_cases hret : i = .ret
    · subst hret
      rcases exec_ret_cases h with ⟨hsp, rfl⟩ | ⟨-, rfl⟩
      · rw [State.advance_sp, State.advance_stack, State.setPc_sp, State.setPc_stack, State.setStack_sp,
          State.setStack_stack, toNat_pred hsp.1]
        exact ⟨by omega, fun k hk => hinv.returns k (by omega)⟩
      · exact ⟨hinv.spLegal, hinv.returns⟩
    · obtain ⟨hsp, hstack⟩ := (onlyTheirInstructionsWrite i s t h).1 (fun nnn e => hcall ⟨nnn, e⟩) hret
      rw [hsp, hstack]
      exact ⟨hinv.spLegal, hinv.returns⟩

/-- The tone follows ST: only FX18 writes ST or calls the port. -/
theorem exec_keeps_tone {i : Instr} (htone : tonePlaying s.sound = s.soundOn) (h : exec i s = .next t) :
    tonePlaying t.sound = t.soundOn := by
  by_cases hi : ∃ x, i = .ldSt x
  · obtain ⟨x, rfl⟩ := hi
    have hwrite := s.writeSt_tone (s.getV x) htone
    rcases exec_ldSt_cases h with rfl | rfl
    · rwa [State.advance_sound, State.soundOn, State.advance_st]
    · exact hwrite
  · obtain ⟨hst, hsound⟩ := (onlyTheirInstructionsWrite i s t h).2.2.2.1 fun x e => hi ⟨x, e⟩
    rwa [State.soundOn, hst, hsound]

theorem AdvancedOrHalted.keeps {n : Nat} {pc : Word} (h : AdvancedOrHalted n pc t) (hpc : pc.toNat + n ≤ 0x10FE) :
    t.pc.toNat ≤ 0x10FE ∧ RunFits t t.run := by
  rcases h with ⟨-, hrun, hpc'⟩ | ⟨hpast, -, -⟩
  · rw [hpc', hrun]
    exact ⟨hpc, runFits_running t⟩
  · omega

/-- PC stays in range and `run` fits the state, however the instruction ends. -/
theorem exec_keeps_pc_run {i : Instr} (hinv : Steady s) (hrun : s.run = .running)
    (hfetch : s.fetch = .ok (encode i)) (h : exec i s = .next t) : t.pc.toNat ≤ 0x10FE ∧ RunFits t t.run := by
  have hpc := pc_lt_of_fetch hfetch
  cases execEnds hrun h with
  | advances n _ hn hadv => exact hadv.keeps (by omega)
  | jumps _ hrun' hpc' => exact ⟨hpc', hrun' ▸ runFits_running t⟩
  | returns k _ hk hadv =>
    have hslot := hinv.returns k (by omega)
    exact hadv.keeps (by omega)
  | halts _ _ hrun' hpc' =>
    rw [hpc', hrun']
    exact ⟨hinv.pcBound, runFits_halted t nofun⟩
  | waits x hi hrun' hpc' hfetch' =>
    subst hi
    rw [hpc', hrun']
    exact ⟨hinv.pcBound, runFits_waiting (hfetch'.trans hfetch)⟩
  | faults f a _ hrun' hpc' hfetch' =>
    rw [hrun', ← hpc']
    refine ⟨hpc' ▸ hinv.pcBound, runFits_faulted f a fun v hv => ?_⟩
    injection hv with hv
    exact hv ▸ hfetch'.trans hfetch

theorem Inv.exec {i : Instr} (h : Inv s) (hrun : s.run = .running) (hfetch : s.fetch = .ok (encode i))
    (hexec : exec i s = .next t) : Inv t := by
  obtain ⟨hsp, hreturns⟩ := exec_keeps_stack h.steady (pc_lt_of_fetch hfetch) hexec
  obtain ⟨hpc, hfits⟩ := exec_keeps_pc_run h.steady hrun hfetch hexec
  exact inv_iff.2 ⟨⟨exec_keeps_memWf h.memWf hexec, hsp, hreturns, hpc, exec_keeps_tone h.soundFollowsSt hexec⟩, hfits⟩

theorem Inv.invalidWord {w : Word} (h : Inv s) (hrun : s.run = .running) (hfetch : s.fetch = .ok w) (v : Word) :
    Inv (invalidWord v s) := by
  have hpc := pc_lt_of_fetch hfetch
  exact Steady.advance (s := s.addDiag _) ⟨h.memWf, h.spLegal, h.returns, h.pcBound, h.soundFollowsSt⟩ hrun
    (by rw [State.addDiag_pc]; omega)

theorem Inv.coreIteration (h : Inv s) (hrun : s.run = .running) (hcore : coreIteration s = .next t) : Inv t := by
  rcases coreIteration_inversion hcore with ⟨a, rfl⟩ | ⟨w, e, hfetch, -, rfl⟩ | ⟨i, hfetch, -, hexec⟩
  · exact h.steady.raise _ _ nofun
  · exact h.invalidWord hrun hfetch w
  · exact h.exec hrun hfetch hexec

/-- Settles O5: the draw of the event keeps the invariant, and so does each kind of step after it. -/
theorem stepKeepsInvariant : Obligations.StepKeepsInvariant := by
  intro s t hinv h
  have hdraw := hinv.drawEvent
  rcases step_inversion h with ⟨hrun, -, hcore⟩ | ⟨-, hother⟩
  · exact hdraw.coreIteration (s.drawEvent_run.trans hrun) hcore
  · rcases hother with ⟨-, rfl⟩ | ⟨-, rfl⟩ | ⟨-, rfl⟩ | ⟨-, rfl⟩ | ⟨k, -, rfl⟩ | ⟨-, rfl⟩
    · exact hdraw
    · exact hdraw.tickDT
    · exact hdraw.tickST
    · exact hdraw.steady.setRun (runFits_halted _ nofun)
    · exact hdraw.keyDownEvent k
    · exact hdraw.pollFailEvent

end Sys2Proof.Machine
end
